-- ==== Sys2Proof/Word.lean ====
section
/-! DEFINITION. The words of the block's ports and registers, each with the width the spec gives it (R6, R10 to R14, R40, R46). -/

namespace Sys2Proof

/-- One command word on the port `cmd`, 16 bits (R40, R46). -/
abbrev Word := BitVec 16

/-- The opcode field `op`, bits 15:12 of a command word (R40). -/
abbrev Opcode := BitVec 4

/-- The immediate field `imm`, bits 11:0 of a command word: an unsigned number 0 to 4095 (R40, R43). -/
abbrev Imm := BitVec 12

/-- A 5-bit symbol (checksum input) or digit (converter output, checksum digit) (R6, glossary). -/
abbrev Symbol := BitVec 5

/-- The 40-bit checksum state, residue, or response data (R6, R10, R41). -/
abbrev Word40 := BitVec 40

/-- A character code as `B32ENC` returns it, 8 bits (R5, R75). -/
abbrev CharCode := BitVec 8

end Sys2Proof
end

