-- ==== Sys2Proof/Syntax.lean ====
section
/-! DEFINITION. The commands of the block (R42, R44): one constructor per mnemonic of spec/opcode_table.json, its operands already taken apart. The five rows of `RDREG` are the five values of its operand. `ILLEGAL` (R44) is no row of the table; it is the other constructor of `Command`, in Sys2Proof/Decode.lean. -/

namespace Sys2Proof

/-- `CTRL.MODE`, the operand `m` of `CKINIT` (R13, R61). -/
inductive Mode
  | compute
  | verify
  deriving DecidableEq, Repr

/-- `CTRL.DIR`, the operand `d` of `CVSTART` (R13, R82, R83). -/
inductive Dir
  | eightToFive
  | fiveToEight
  deriving DecidableEq, Repr

/-- `CTRL.STRICT`, the operand `s` of `CVSTART`, under the names of R47 (R13, R83). -/
inductive Strictness
  | loose
  | strict
  deriving DecidableEq, Repr

/-- The five registers `RDREG` reads by number, 0 to 4 (R19). -/
inductive Reg
  | c
  | acc
  | bits
  | ctrl
  | status
  deriving DecidableEq, Repr

/-- A command that is not `ILLEGAL` (R42, R44). A data operand is the whole 12-bit immediate, since its range is checked when the command executes, not when it is decoded (R43). -/
inductive Instr
  /-- `NOP` (R56). -/
  | nop
  /-- `RDREG r` (R57). -/
  | rdreg (r : Reg)
  /-- `CLRERR` (R58). -/
  | clrerr
  /-- `CKINIT m` (R61). -/
  | ckinit (m : Mode)
  /-- `CKSYM v` (R62). -/
  | cksym (v : Imm)
  /-- `CKPFX ch` (R63). -/
  | ckpfx (ch : Imm)
  /-- `CKFIN` (R64). -/
  | ckfin
  /-- `CKRES` (R65). -/
  | ckres
  /-- `CKDIG k`, the digit index 0 to 7 (R66). -/
  | ckdig (k : BitVec 3)
  /-- `B32ENC v` (R75). -/
  | b32enc (v : Imm)
  /-- `B32DEC ch` (R76). -/
  | b32dec (ch : Imm)
  /-- `CVSTART d, s` (R83). -/
  | cvstart (d : Dir) (st : Strictness)
  /-- `CVPUSH v` (R84). -/
  | cvpush (v : Imm)
  /-- `CVFLUSH` (R85). -/
  | cvflush
  deriving DecidableEq, Repr

end Sys2Proof
end

