-- ==== Sys2Proof/Config.lean ====
section
/-! DEFINITION. What the spec leaves open: the free values, constants with no body. Nothing in Lean can evaluate them or prove a value of them. The block's fixed tables (R3, R4) are in Sys2Proof/Machine/Tables.lean. -/

namespace Sys2Proof

/-- What an accepted `CVPUSH` writes and returns (R84): the new `ACC` and `BITS`, and the response's `rsp_cnt` and `rsp_data`. -/
structure PushEffect where
  acc  : BitVec 13
  bits : BitVec 4
  cnt  : BitVec 2
  data : Word40
  deriving DecidableEq, Repr, Inhabited

/-- FREE VALUE (DESIGN CHOICE, log 5; safe). What an accepted `CVPUSH` writes and returns in a state outside items 1 and 2 of R17, of which that rule says: "outside them `TO - BITS` could be negative and the rules say nothing". Arguments: `ACC`, `BITS`, `DIR` and the pushed value, all that `CVPUSH` reads (R35, R84). No state that a run reaches is such a state. -/
opaque Config.pushOutsideR17 (acc : BitVec 13) (bits : BitVec 4) (d : Dir) (v : Imm) : PushEffect

/-- FREE VALUE (DESIGN CHOICE, log 5; safe). The value `pad` of `CVFLUSH` (R85) in a state outside items 1 and 2 of R17. Arguments: `ACC`, `BITS`, `DIR`, all that `pad` is computed from. -/
opaque Config.padOutsideR17 (acc : BitVec 13) (bits : BitVec 4) (d : Dir) : BitVec 8

/-- FREE VALUE (DESIGN CHOICE, log 11; safe). What the host receives for the `n`-th command that a reset cuts short: no response, or any values of `rsp_cause`, `rsp_cnt` and `rsp_data`. R125: "whether its response is produced is not specified and the host must not rely on it"; U4 of spec/93_implementation_defined.md: "`any value` for that one response". -/
opaque Config.abandonedResponse (n : Nat) : Option (BitVec 3 × BitVec 2 × Word40)

end Sys2Proof
end

