-- ==== Sys2Proof/WellFormed.lean ====
section
/-! DEFINITION. Which command words are well formed: those that match a row of R42's table of `match` and `mask` values (spec/opcode_table.json). This is written from the table alone; Sys2Proof/Decode.lean is written from R44's `decode`. The operands of `Instr` are typed so that every term of it is well formed; what can be ill formed is a word. -/

namespace Sys2Proof

/-- One row of R42's table: a word `w` selects it when `w & mask = pattern` (the table's `match`). -/
structure TableRow where
  mnemonic : String
  pattern  : Word
  mask     : Word
  deriving DecidableEq, Repr

/-- The 18 rows of spec/opcode_table.json (R42). -/
def tableRows : List TableRow :=
  [⟨"NOP", 0x0000, 0xFFFF⟩,
   ⟨"RDREG", 0x1000, 0xFFFF⟩, ⟨"RDREG", 0x1001, 0xFFFF⟩, ⟨"RDREG", 0x1002, 0xFFFF⟩,
   ⟨"RDREG", 0x1003, 0xFFFF⟩, ⟨"RDREG", 0x1004, 0xFFFF⟩,
   ⟨"CLRERR", 0x2000, 0xFFFF⟩] ++
  [⟨"CKINIT", 0x4000, 0xFFFE⟩, ⟨"CKSYM", 0x5000, 0xF000⟩, ⟨"CKPFX", 0x6000, 0xF000⟩,
   ⟨"CKFIN", 0x7000, 0xFFFF⟩, ⟨"CKRES", 0x8000, 0xFFFF⟩, ⟨"CKDIG", 0x9000, 0xFFF8⟩] ++
  [⟨"B32ENC", 0xA000, 0xF000⟩, ⟨"B32DEC", 0xB000, 0xF000⟩,
   ⟨"CVSTART", 0xC000, 0xFFFC⟩, ⟨"CVPUSH", 0xD000, 0xF000⟩, ⟨"CVFLUSH", 0xE000, 0xFFFF⟩]

/-- `w` selects the row `r` (R42). -/
def selectsRow (w : Word) (r : TableRow) : Bool :=
  w &&& r.mask == r.pattern

/-- `w` is a legal word: it selects a row (R42). -/
def wellFormedWord (w : Word) : Bool :=
  tableRows.any (selectsRow w)

end Sys2Proof
end

