-- ==== Sys2Proof/Decode.lean ====
section
/-! DEFINITION. Decoding a command word (R40, R43 to R45) and encoding a command (R42, R47). -/

namespace Sys2Proof

/-- What a word decodes to (R44): a command, or `ILLEGAL`. -/
inductive Command
  | legal (i : Instr)
  | illegal
  deriving DecidableEq, Repr

/-- `op = w[15:12]` (R40). -/
def opField (w : Word) : Opcode := w.extractLsb' 12 4

/-- `imm = w[11:0]` (R40). -/
def immField (w : Word) : Imm := w.extractLsb' 0 12

/-- `MODE`: 0 = COMPUTE, 1 = VERIFY (R13). -/
def Mode.ofBit (b : Bool) : Mode := if b then .verify else .compute

/-- The bit that stands for a mode (R13). -/
def Mode.bit : Mode → Bool
  | .compute => false
  | .verify => true

/-- `DIR`: 0 = 8-to-5, 1 = 5-to-8 (R13). -/
def Dir.ofBit (b : Bool) : Dir := if b then .fiveToEight else .eightToFive

/-- The bit that stands for a direction (R13). -/
def Dir.bit : Dir → Bool
  | .eightToFive => false
  | .fiveToEight => true

/-- `STRICT`: 0 = non-strict, 1 = strict (R13). -/
def Strictness.ofBit (b : Bool) : Strictness := if b then .strict else .loose

/-- The bit that stands for a strictness (R13). -/
def Strictness.bit : Strictness → Bool
  | .loose => false
  | .strict => true

/-- The register of a register number; 5 and above are reserved (R19). -/
def Reg.ofNumber? : Nat → Option Reg
  | 0 => some .c
  | 1 => some .acc
  | 2 => some .bits
  | 3 => some .ctrl
  | 4 => some .status
  | _ => none

/-- The register's number (R19). -/
def Reg.number : Reg → BitVec 4
  | .c => 0
  | .acc => 1
  | .bits => 2
  | .ctrl => 3
  | .status => 4

/-- A command with no operand: its `imm` must be 0 (R43, R45). -/
def noOperand (imm : Imm) (i : Instr) : Command :=
  if imm = 0 then .legal i else .illegal

/-- `RDREG` with an immediate up to 4 (R44). -/
def decodeRdreg (imm : Imm) : Command :=
  match Reg.ofNumber? imm.toNat with
  | some r => .legal (.rdreg r)
  | none => .illegal

/-- `CKINIT` with an immediate up to 1 (R44). -/
def decodeCkinit (imm : Imm) : Command :=
  if imm.toNat ≤ 1 then .legal (.ckinit (.ofBit (imm.getLsbD 0))) else .illegal

/-- `CKDIG` with an immediate up to 7 (R44). -/
def decodeCkdig (imm : Imm) : Command :=
  if imm.toNat ≤ 7 then .legal (.ckdig (imm.extractLsb' 0 3)) else .illegal

/-- `CVSTART(imm[0], imm[1])` with an immediate up to 3 (R44). -/
def decodeCvstart (imm : Imm) : Command :=
  if imm.toNat ≤ 3 then .legal (.cvstart (.ofBit (imm.getLsbD 0)) (.ofBit (imm.getLsbD 1))) else .illegal

/-- `decode` of R44: total on the 65536 words, independent of any state. -/
def decode (w : Word) : Command :=
  match (opField w).toNat with
  | 0x0 => noOperand (immField w) .nop
  | 0x1 => decodeRdreg (immField w)
  | 0x2 => noOperand (immField w) .clrerr
  | 0x4 => decodeCkinit (immField w)
  | 0x5 => .legal (.cksym (immField w))
  | 0x6 => .legal (.ckpfx (immField w))
  | 0x7 => noOperand (immField w) .ckfin
  | 0x8 => noOperand (immField w) .ckres
  | 0x9 => decodeCkdig (immField w)
  | 0xA => .legal (.b32enc (immField w))
  | 0xB => .legal (.b32dec (immField w))
  | 0xC => decodeCvstart (immField w)
  | 0xD => .legal (.cvpush (immField w))
  | 0xE => noOperand (immField w) .cvflush
  | _ => .illegal

/-- `(op << 12) | imm` (R47). -/
def commandWord (op : Opcode) (imm : Imm) : Word := op ++ imm

/-- The immediate of `CVSTART d, s`: `(s << 1) | d` (R47). -/
def cvstartImm (d : Dir) (st : Strictness) : Imm :=
  (BitVec.ofBool st.bit ++ BitVec.ofBool d.bit).setWidth 12

/-- The word of a command (R42, R43, R47). -/
def encode : Instr → Word
  | .nop => commandWord 0x0 0
  | .rdreg r => commandWord 0x1 (r.number.setWidth 12)
  | .clrerr => commandWord 0x2 0
  | .ckinit m => commandWord 0x4 ((BitVec.ofBool m.bit).setWidth 12)
  | .cksym v => commandWord 0x5 v
  | .ckpfx ch => commandWord 0x6 ch
  | .ckfin => commandWord 0x7 0
  | .ckres => commandWord 0x8 0
  | .ckdig k => commandWord 0x9 (k.setWidth 12)
  | .b32enc v => commandWord 0xA v
  | .b32dec ch => commandWord 0xB ch
  | .cvstart d st => commandWord 0xC (cvstartImm d st)
  | .cvpush v => commandWord 0xD v
  | .cvflush => commandWord 0xE 0

/-- The word that a number of `nbits` bits stands for, where it fits a command word: a command is one indivisible 16-bit value, so no byte order applies (R29, R40). -/
def tableWord? (nbits w : Nat) : Option Word :=
  if w % 2 ^ nbits < 2 ^ 16 then some (BitVec.ofNat 16 (w % 2 ^ nbits)) else none

/-- The command the decoder reads from a word numbered as spec/opcode_table.json numbers it; none where the word is `ILLEGAL` or longer than a command word. -/
def decodeTableWord (nbits w : Nat) : Option Instr :=
  match tableWord? nbits w with
  | none => none
  | some word =>
    match decode word with
    | .legal i => some i
    | .illegal => none

end Sys2Proof
end

