-- ==== Sys2Proof/Machine/State.lean ====
section
/-! DEFINITION. The state of the block: its five registers (R10 to R14), which R16 says are the whole of its architectural state, and its ports (R46). Reset (R18, R125). The reasons a step can stop. -/

namespace Sys2Proof.Machine

/-- The four causes of a fault of the block (R110). A fault of the block is a NEXT state of the model: it latches its cause and responds (R112). -/
inductive Cause
  | outOfRange
  | unknownSymbol
  | paddingRequired
  | illegalCommand
  deriving DecidableEq, Repr

/-- What the host can do at the block's inputs (R46, R125). -/
inductive PortEvent
  /-- Assert `rst` between two commands. -/
  | rst
  /-- Present one word on `cmd` and let its command complete. -/
  | cmd (w : Word)
  /-- Present one word on `cmd` and assert `rst` while its command is in progress. -/
  | cmdCutByRst (w : Word)
  deriving DecidableEq, Repr

/-- The response of one command: the ports `rsp_cause`, `rsp_cnt`, `rsp_data` (R41, R46). -/
structure Response where
  cause : BitVec 3
  cnt   : BitVec 2
  data  : Word40
  deriving DecidableEq, Repr

/-- The state. The first five fields are the spec's registers. The last three are the model's own: its record of the ports (log 1, log 2), and the counter that the free value of log 11 reads. The block keeps none of them (R16). -/
structure State where
  /-- `C`, the checksum state (R10). -/
  c : Word40
  /-- `ACC`, the converter's bit buffer (R11). -/
  acc : BitVec 13
  /-- `BITS`, the converter's count of buffered bits (R12). -/
  bits : BitVec 4
  /-- `CTRL`: MODE bit 0, DIR bit 1, STRICT bit 2 (R13). -/
  ctrl : BitVec 3
  /-- `STATUS`: ECAUSE bits 2:0, VALID bit 3 (R14). -/
  status : BitVec 4
  /-- What the host presents and the block has not yet taken, oldest first (R46, R32). -/
  input : List PortEvent
  /-- The responses the block has given, oldest first (R32, R41, R137). -/
  responses : List Response
  /-- How many commands a reset has cut short: the argument of `Config.abandonedResponse`, a fresh one each time (log 11). -/
  abandoned : Nat
  deriving DecidableEq, Repr

/-- The state right after reset (R18, R125), with nothing presented and no response given yet. -/
def State.reset : State where
  c := 1
  acc := 0
  bits := 0
  ctrl := 0
  status := 0
  input := []
  responses := []
  abandoned := 0

/-- Why a step can stop with a fault of the MODEL: for no reason, so it has no constructor (log 9; safe). The spec: "No behaviour of the block is `stuck`: every command in every state completes with a response" (spec/93_implementation_defined.md). The block's own faults (R110) are next states. -/
inductive Fault
  deriving DecidableEq, Repr

/-- Why the MODEL can refuse an instruction. The block's own refusal while halted (R113) is a next state. -/
inductive Refusal
  /-- Raised by an arm of `exec` for an instruction with no meaning yet (safe: the model stops); no arm raises it. -/
  | notModelled (mnemonic : String)
  deriving DecidableEq, Repr

end Sys2Proof.Machine
end

