-- ==== Sys2Proof/Machine/Flags.lean ====
section
/-! DEFINITION. The fields of `CTRL` (R13) and `STATUS` (R14), their updates, and the one computed flag, `VALID` (R64). Also one setter per register, so that every write goes through a named update. -/

namespace Sys2Proof.Machine

/-- `C <- v` (R10). -/
def State.setC (s : State) (v : Word40) : State := { s with c := v }

/-- `ACC <- v` (R11). -/
def State.setAcc (s : State) (v : BitVec 13) : State := { s with acc := v }

/-- `BITS <- v` (R12). -/
def State.setBits (s : State) (v : BitVec 4) : State := { s with bits := v }

/-- `CTRL.MODE`, bit 0 (R13). -/
def State.mode (s : State) : Mode := .ofBit (s.ctrl.getLsbD 0)

/-- `CTRL.DIR`, bit 1 (R13). -/
def State.dir (s : State) : Dir := .ofBit (s.ctrl.getLsbD 1)

/-- `CTRL.STRICT`, bit 2 (R13). -/
def State.strictness (s : State) : Strictness := .ofBit (s.ctrl.getLsbD 2)

/-- `CTRL.MODE <- m`; the other two fields keep their values (R13, R61). -/
def State.setMode (s : State) (m : Mode) : State :=
  { s with ctrl := s.ctrl.extractLsb' 1 2 ++ BitVec.ofBool m.bit }

/-- `CTRL.DIR <- d`, `CTRL.STRICT <- st`; `MODE` keeps its value (R13, R83). -/
def State.setConversion (s : State) (d : Dir) (st : Strictness) : State :=
  { s with ctrl := BitVec.ofBool st.bit ++ BitVec.ofBool d.bit ++ s.ctrl.extractLsb' 0 1 }

/-- `STATUS.ECAUSE`, bits 2:0 (R14). -/
def State.ecause (s : State) : BitVec 3 := s.status.extractLsb' 0 3

/-- `STATUS.VALID`, bit 3 (R14). -/
def State.valid (s : State) : Bool := s.status.getLsbD 3

/-- `STATUS.ECAUSE <- k`; `VALID` keeps its value (R14, R58, R112). -/
def State.setEcause (s : State) (k : BitVec 3) : State :=
  { s with status := s.status.extractLsb' 3 1 ++ k }

/-- `STATUS.VALID <- b`; `ECAUSE` keeps its value (R14, R61, R64). -/
def State.setValid (s : State) (b : Bool) : State :=
  { s with status := BitVec.ofBool b ++ s.status.extractLsb' 0 3 }

/-- The verify flag: the residue `C ^ 1` is 0 (R64). -/
def residueIsZero (c : Word40) : Bool := (c ^^^ 1) == 0

end Sys2Proof.Machine
end

