-- ==== Sys2Proof/Machine/Ops.lean ====
section
/-! DEFINITION. The shared operations every command goes through: its normal response, taking a fault (R112), refusal while halted (R113), the halted gate of R55, return from the halted condition (R58, R115), reading a register (R19), reset (R125), and taking the next event from the ports (R46). -/

namespace Sys2Proof.Machine

/-- The outcome of a step or of a meaning. -/
abbrev Outcome := Host.Outcome State Fault Refusal

/-- The cause codes (R111). -/
def Cause.code : Cause → BitVec 3
  | .outOfRange => 1
  | .unknownSymbol => 2
  | .paddingRequired => 3
  | .illegalCommand => 4

/-- Give the host one response. -/
def State.emit (s : State) (r : Response) : State := { s with responses := s.responses ++ [r] }

/-- `respond(data, cnt)`: the command completes normally, `rsp_cause` = 0 (R41, notation of 00_scope.md). -/
def respond (data : Word40) (cnt : BitVec 2) (s : State) : Outcome :=
  .next (s.emit ⟨0, cnt, data⟩)

/-- The fault latch: the first cause wins, a latched cause is never overwritten (R112). -/
def State.latch (s : State) (k : Cause) : State :=
  if s.ecause = 0 then s.setEcause k.code else s

/-- TAKING A FAULT, `raise k`: latch the cause, write no other register, respond (k, 0, 0) (R112). Nothing else is saved and no control is transferred. -/
def raise (k : Cause) (s : State) : Outcome :=
  .next ((s.latch k).emit ⟨k.code, 0, 0⟩)

/-- RETURN FROM THE HALTED CONDITION: `ECAUSE` to 0 and nothing else (R58, R115). -/
def State.clearFault (s : State) : State := s.setEcause 0

/-- Refusal while halted: no register is written, the response carries the latched cause (R113). -/
def refuseHalted (s : State) : Outcome :=
  .next (s.emit ⟨s.ecause, 0, 0⟩)

/-- The halted gate of R55: the command's own work runs only while no fault is latched. Every command but `NOP`, `RDREG`, `CLRERR` stands behind it, and so does `ILLEGAL` (R113, R114). -/
def whenReady (work : State → Outcome) (s : State) : Outcome :=
  if s.ecause = 0 then work s else refuseHalted s

/-- Executing an `ILLEGAL` word: `IllegalCommand`, unless the block is halted (R45, R55, R114). -/
def execIllegal (s : State) : Outcome :=
  whenReady (raise .illegalCommand) s

/-- The register zero-extended to 40 bits (R19). Reading has no side effect (R31, R57). -/
def readReg : Reg → State → Word40
  | .c, s => s.c
  | .acc, s => s.acc.setWidth 40
  | .bits, s => s.bits.setWidth 40
  | .ctrl, s => s.ctrl.setWidth 40
  | .status, s => s.status.setWidth 40

/-- Reset: every register at its reset value, whatever it held (R18, R125). What the host has still to present and what it has received are the host's, and stay (log 3). -/
def State.applyReset (s : State) : State :=
  { State.reset with input := s.input, responses := s.responses, abandoned := s.abandoned }

/-- Reset with a command in progress: the command is abandoned, so none of its effects remain, and every register takes its reset value (R125). Whether the host receives a response for it, and with which values, is free (log 11). -/
def State.abandon (s : State) : State :=
  let t := { s.applyReset with abandoned := s.abandoned + 1 }
  match Config.abandonedResponse s.abandoned with
  | none => t
  | some (cause, cnt, data) => t.emit ⟨cause, cnt, data⟩

/-- The block with nothing presented at its ports: it waits, and no register changes, since reset and commands are the only events that change state (R125, R137; log 4). -/
def idle (s : State) : Outcome := .next s

/-- The state once the host's oldest event has been taken from the ports (R32). -/
def State.takeEvent (s : State) (rest : List PortEvent) : State := { s with input := rest }

/-- The host presents a word before everything it has still to present. -/
def State.presentFirst (s : State) (w : Word) : State := { s with input := .cmd w :: s.input }

end Sys2Proof.Machine
end

