-- ==== Sys2Proof/Machine/Operands.lean ====
section
/-! DEFINITION. The operand forms of R43, the widths of R82, and the lanes of a converter response (R41). -/

namespace Sys2Proof.Machine

/-- A data value that fits `n` bits, `v < 2^n`: the range check made at execution (R43, R62, R75, R84). -/
def fits (n : Nat) (v : Imm) : Bool := decide (v.toNat < 2 ^ n)

/-- The low five bits of an immediate, `v[4:0]` (R28, R62, R63). -/
def lowSymbol (v : Imm) : Symbol := v.extractLsb' 0 5

/-- FROM, the input width of a direction (R82). -/
def fromWidth : Dir → Nat
  | .eightToFive => 8
  | .fiveToEight => 5

/-- TO, the output width of a direction (R82). -/
def toWidth : Dir → Nat
  | .eightToFive => 5
  | .fiveToEight => 8

/-- `mask(n)` = `2^n - 1` (notation of 00_scope.md). -/
def mask (n : Nat) : Nat := 2 ^ n - 1

/-- `rsp_data` of a converter response: `outs[0] | (outs[1] << 8)`, a missing output counting as 0 (R41, R84). -/
def lanes (outs : List Nat) : Word40 :=
  BitVec.ofNat 40 (outs.getD 0 0 ||| (outs.getD 1 0 <<< 8))

end Sys2Proof.Machine
end

