-- ==== Sys2Proof/Machine/Tables.lean ====
section
/-! DEFINITION. The block's two constant tables: the generator constants (R3) and the alphabet (R4). They are not state: no command and no reset writes them (R16, R125). -/

namespace Sys2Proof.Machine

/-- `G[i]`, `i` in 0..4 (R3). -/
def generators : List Word40 :=
  [0x98f2bc8e61, 0x79b76d99e2, 0xf33e5fb3c4, 0xae2eabe2a8, 0x1e4f43e470]

/-- The character codes of `ALPHABET`, index 0 first: `qpzry9x8gf2tvdw0s3jn54khce6mua7l` (R4, R75). PRESUMED by the spec itself, log 6 (unsafe): the entries 3, 11, 18, 20, 28, 31 and that codes are ASCII. -/
def alphabet : List CharCode :=
  [0x71, 0x70, 0x7a, 0x72, 0x79, 0x39, 0x78, 0x38] ++
  [0x67, 0x66, 0x32, 0x74, 0x76, 0x64, 0x77, 0x30] ++
  [0x73, 0x33, 0x6a, 0x6e, 0x35, 0x34, 0x6b, 0x68] ++
  [0x63, 0x65, 0x36, 0x6d, 0x75, 0x61, 0x37, 0x6c]

/-- `code(ALPHABET[v])` (R75). -/
def alphabetCode (v : Symbol) : CharCode := alphabet.getD v.toNat 0

/-- The index of a character code in `ALPHABET`, where it has one (R76). All twelve bits of the operand are compared. -/
def alphabetIndex? (ch : Imm) : Option Symbol :=
  (alphabet.findIdx? (fun code => code.setWidth 12 == ch)).map (BitVec.ofNat 5)

end Sys2Proof.Machine
end

