-- ==== Sys2Proof/Machine/Base32.lean ====
section
/-! DEFINITION. The base32 symbol codec: `B32ENC`, `B32DEC` (spec/42_base32.md). It has no state. -/

namespace Sys2Proof.Machine

/-- `B32ENC v` (R75). -/
def execB32enc (v : Imm) (s : State) : Outcome :=
  whenReady (fun s =>
    if fits 5 v then respond ((alphabetCode (lowSymbol v)).setWidth 40) 0 s else raise .outOfRange s) s

/-- `B32DEC ch` (R76). -/
def execB32dec (ch : Imm) (s : State) : Outcome :=
  whenReady (fun s => match alphabetIndex? ch with
    | some v => respond (v.setWidth 40) 0 s
    | none => raise .unknownSymbol s) s

end Sys2Proof.Machine
end

