-- ==== Sys2Proof/Machine/BitConv.lean ====
section
/-! DEFINITION. The bit-width converter: `CVSTART`, `CVPUSH`, `CVFLUSH` (spec/43_bitconv.md). Values inside one command are exact natural numbers, narrowed when they are written (R89, log 7). -/

namespace Sys2Proof.Machine

/-- Items 1 and 2 of R17: `BITS < TO` and `ACC < 2^BITS`. The rules of the converter are stated for states that meet them. -/
def State.bufferOk (s : State) : Bool :=
  decide (s.bits.toNat < toWidth s.dir) && decide (s.acc.toNat < 2 ^ s.bits.toNat)

/-- `CVSTART d, s` (R83). -/
def execCvstart (d : Dir) (st : Strictness) (s : State) : Outcome :=
  whenReady (fun s => respond 0 0 (((s.setConversion d st).setAcc 0).setBits 0)) s

/-- What the loop of `CVPUSH` leaves: the outputs in order, and the local variables `acc` and `bits` (R84). -/
structure Emission where
  outs : List Nat
  acc  : Nat
  bits : Nat
  deriving DecidableEq, Repr

/-- The loop of `CVPUSH`: while `bits >= TO`, emit the top TO bits and keep the rest (R84). Each pass takes TO from `bits`, so `bits` passes are never too few. -/
def emitLoop (tw : Nat) : (fuel acc bits : Nat) → Emission
  | 0, acc, bits => ⟨[], acc, bits⟩
  | fuel + 1, acc, bits =>
    if tw ≤ bits then
      let bits' := bits - tw
      let rest := emitLoop tw fuel (acc &&& mask bits') bits'
      ⟨((acc >>> bits') &&& mask tw) :: rest.outs, rest.acc, rest.bits⟩
    else ⟨[], acc, bits⟩

/-- The buffer with one value pushed, and its emissions (R84). -/
def pushEmission (d : Dir) (acc bits v : Nat) : Emission :=
  let bits' := bits + fromWidth d
  emitLoop (toWidth d) bits' ((acc <<< fromWidth d) ||| v) bits'

/-- What an accepted `CVPUSH` writes and returns, by the rule (R84). -/
def pushByRule (d : Dir) (acc : BitVec 13) (bits : BitVec 4) (v : Imm) : PushEffect :=
  let e := pushEmission d acc.toNat bits.toNat v.toNat
  ⟨BitVec.ofNat 13 e.acc, BitVec.ofNat 4 e.bits, BitVec.ofNat 2 e.outs.length, lanes e.outs⟩

/-- What an accepted `CVPUSH` writes and returns: the rule's values where the rule speaks, else a free value (R17, R84; log 5). -/
def pushEffect (s : State) (v : Imm) : PushEffect :=
  if s.bufferOk then pushByRule s.dir s.acc s.bits v
  else Config.pushOutsideR17 s.acc s.bits s.dir v

/-- `CVPUSH v` (R84). The range check comes before every write. -/
def execCvpush (v : Imm) (s : State) : Outcome :=
  whenReady (fun s =>
    if fits (fromWidth s.dir) v then
      let e := pushEffect s v
      respond e.data e.cnt ((s.setAcc e.acc).setBits e.bits)
    else raise .outOfRange s) s

/-- `pad`: the leftover bits left-justified in TO bits, zeros below (R85). -/
def padByRule (d : Dir) (acc bits : Nat) : Nat :=
  (acc <<< (toWidth d - bits)) &&& mask (toWidth d)

/-- `pad` of `CVFLUSH`: the rule's value where the rule speaks, else a free value (R17, R85; log 5). -/
def flushPad (s : State) : Nat :=
  if s.bufferOk then padByRule s.dir s.acc.toNat s.bits.toNat
  else (Config.padOutsideR17 s.acc s.bits s.dir).toNat

/-- The end of a flush that does not fault: `ACC <- 0`, `BITS <- 0`, and the response (R85). -/
def finishFlush (outs : List Nat) (s : State) : Outcome :=
  respond (lanes outs) (BitVec.ofNat 2 outs.length) ((s.setAcc 0).setBits 0)

/-- `CVFLUSH` (R85). -/
def execCvflush (s : State) : Outcome :=
  whenReady (fun s => match s.strictness with
    | .loose => finishFlush (if 0 < s.bits.toNat then [flushPad s] else []) s
    | .strict =>
      if s.bits.toNat < fromWidth s.dir ∧ flushPad s = 0 then finishFlush [] s
      else raise .paddingRequired s) s

end Sys2Proof.Machine
end

