-- ==== Sys2Proof/Machine/Checksum.lean ====
section
/-! DEFINITION. The checksum engine: `fold` (R60) and the commands `CKINIT`, `CKSYM`, `CKPFX`, `CKFIN`, `CKRES`, `CKDIG` (spec/41_checksum.md). -/

namespace Sys2Proof.Machine

/-- One pass of `fold`'s loop: `if top[i] = 1: c1 = c1 ^ G[i]` (R60). -/
def foldGenerator (top : Symbol) (c1 : Word40) (i : Nat) : Word40 :=
  if top.getLsbD i then c1 ^^^ generators.getD i 0 else c1

/-- `fold(c, v)`: absorb one symbol into the checksum state (R60). -/
def fold (c : Word40) (v : Symbol) : Word40 :=
  let top : Symbol := c.extractLsb' 35 5
  let c1 := ((c &&& 0x07ffffffff) <<< 5) ^^^ v.setWidth 40
  [0, 1, 2, 3, 4].foldl (foldGenerator top) c1

/-- Fold a sequence of symbols, first symbol first (R69). -/
def foldAll (c : Word40) (vs : List Symbol) : Word40 := vs.foldl fold c

/-- The residue `C ^ 1` (R64, R65). -/
def residue (c : Word40) : Word40 := c ^^^ 1

/-- Digit `k` of a residue, most significant first: `(r >> (5 * (7 - k))) & 0x1f` (R27, R66). -/
def residueDigit (r : Word40) (k : BitVec 3) : Symbol :=
  (r >>> (5 * (7 - k.toNat))).extractLsb' 0 5

/-- `C <- c'` with the new `C` as the response, the end of `CKINIT`, `CKSYM` and `CKPFX` (R41). -/
def respondNewC (c' : Word40) (s : State) : Outcome := respond c' 0 (s.setC c')

/-- `CKINIT m` (R61). -/
def execCkinit (m : Mode) (s : State) : Outcome :=
  whenReady (fun s => respondNewC 1 ((s.setMode m).setValid false)) s

/-- `CKSYM v` (R62). -/
def execCksym (v : Imm) (s : State) : Outcome :=
  whenReady (fun s => if fits 5 v then respondNewC (fold s.c (lowSymbol v)) s else raise .outOfRange s) s

/-- `CKPFX ch` (R63): bits 11:5 of the operand are ignored. -/
def execCkpfx (ch : Imm) (s : State) : Outcome :=
  whenReady (fun s => respondNewC (fold s.c (lowSymbol ch)) s) s

/-- `CKFIN` in COMPUTE mode: eight folds of the symbol 0, then the residue (R64). -/
def finishCompute (s : State) : Outcome :=
  let c8 := foldAll s.c (List.replicate 8 0)
  respond (residue c8) 0 (s.setC c8)

/-- `CKFIN` in VERIFY mode: `VALID` and the response say whether the residue is 0 (R64). -/
def finishVerify (s : State) : Outcome :=
  let ok := residueIsZero s.c
  respond (if ok then 1 else 0) 0 (s.setValid ok)

/-- `CKFIN` (R64). -/
def execCkfin (s : State) : Outcome :=
  whenReady (fun s => match s.mode with
    | .compute => finishCompute s
    | .verify => finishVerify s) s

/-- `CKRES` (R65). -/
def execCkres (s : State) : Outcome :=
  whenReady (fun s => respond (residue s.c) 0 s) s

/-- `CKDIG k` (R66). -/
def execCkdig (k : BitVec 3) (s : State) : Outcome :=
  whenReady (fun s => respond ((residueDigit (residue s.c) k).setWidth 40) 0 s) s

end Sys2Proof.Machine
end

