-- ==== Sys2Proof/Machine/System.lean ====
section
/-! DEFINITION. The system commands `NOP`, `RDREG`, `CLRERR` (spec/40_system.md). None of them stands behind the halted gate (R113). -/

namespace Sys2Proof.Machine

/-- `NOP` (R56). -/
def execNop (s : State) : Outcome := respond 0 0 s

/-- `RDREG r` (R57, R19). -/
def execRdreg (r : Reg) (s : State) : Outcome := respond (readReg r s) 0 s

/-- `CLRERR` (R58). -/
def execClrerr (s : State) : Outcome := respond 0 0 s.clearFault

end Sys2Proof.Machine
end

