-- ==== Sys2Proof/Machine/Dispatch.lean ====
section
/-! DEFINITION. `exec`: one arm per command (R42, R55). -/

namespace Sys2Proof.Machine

def exec (i : Instr) (s : State) : Host.Outcome State Fault Refusal :=
  match i with
  | .nop => Sys2Proof.Machine.execNop s
  | .rdreg r => Sys2Proof.Machine.execRdreg r s
  | .clrerr => Sys2Proof.Machine.execClrerr s
  | .ckinit m => Sys2Proof.Machine.execCkinit m s
  | .cksym v => Sys2Proof.Machine.execCksym v s
  | .ckpfx ch => Sys2Proof.Machine.execCkpfx ch s
  | .ckfin => Sys2Proof.Machine.execCkfin s
  | .ckres => Sys2Proof.Machine.execCkres s
  | .ckdig k => Sys2Proof.Machine.execCkdig k s
  | .b32enc v => Sys2Proof.Machine.execB32enc v s
  | .b32dec ch => Sys2Proof.Machine.execB32dec ch s
  | .cvstart d st => Sys2Proof.Machine.execCvstart d st s
  | .cvpush v => Sys2Proof.Machine.execCvpush v s
  | .cvflush => Sys2Proof.Machine.execCvflush s

end Sys2Proof.Machine
end

