-- ==== Sys2Proof/Machine/Step.lean ====
section
/-! DEFINITION. One step: the block takes the host's oldest event from its ports (R46, R32) and, for a command word, executes it (R55). -/

namespace Sys2Proof.Machine

/-- One command word executed: decode it, then run its command, or `ILLEGAL` (R55). -/
def execWord (w : Word) (s : State) : Host.Outcome State Fault Refusal :=
  match decode w with
  | .legal i => exec i s
  | .illegal => execIllegal s

/-- One step (R46, R55, R125): a command word is executed, `rst` resets the block, `rst` during a command abandons it and resets the block, and with nothing presented the block waits. -/
def step (s : State) : Host.Outcome State Fault Refusal :=
  match s.input with
  | [] => idle s
  | .rst :: rest => .next (s.takeEvent rest).applyReset
  | .cmdCutByRst _ :: rest => .next (s.takeEvent rest).abandon
  | .cmd w :: rest => execWord w (s.takeEvent rest)

/-- `s` with the host presenting the low `nbits` bits of `w` as its next command word (log 1, log 8). -/
def State.withFetchWord (s : State) (nbits w : Nat) : State :=
  s.presentFirst (BitVec.ofNat 16 (w % 2 ^ nbits))

end Sys2Proof.Machine
end

