-- ==== Sys2Proof/Machine/Sequences.lean ====
section
/-! DEFINITION. Programs for the block and what they are to compute: the pseudo-instructions of R48, the command sequences of R69 to R71, R78 and R86, running a program (R137), and CADDR's functions (spec/41_checksum.md section 8, spec/42_base32.md section 3, spec/43_bitconv.md section 5) written without the block's commands. -/

namespace Sys2Proof.Machine

/-! ### Running a program (R137) -/

/-- `n` steps. -/
def runSteps : Nat → State → Outcome
  | 0, s => .next s
  | n + 1, s =>
    match step s with
    | .next t => runSteps n t
    | .fault r => .fault r
    | .refused r => .refused r

/-- The host presents `ws`, first word first, before anything it has still to present. -/
def State.presentAll (s : State) (ws : List Word) : State :=
  { s with input := ws.map PortEvent.cmd ++ s.input }

/-- A program is a finite sequence of command words; its run ends with the response to its last word (R137). -/
def runProgram (ws : List Word) (s : State) : Outcome :=
  runSteps ws.length (s.presentAll ws)

/-- The words of a command sequence. -/
def wordsOf (cmds : List Instr) : List Word := cmds.map encode

/-- The run of a command sequence. -/
def runCommands (cmds : List Instr) (s : State) : Outcome := runProgram (wordsOf cmds) s

/-- The converter outputs a response carries, in order (R41, R130). -/
def Response.outputs (r : Response) : List Nat :=
  [(r.data.extractLsb' 0 8).toNat, (r.data.extractLsb' 8 8).toNat].take r.cnt.toNat

/-- The outputs of a list of responses, concatenated in order (R48, R86). -/
def outputsOf (rs : List Response) : List Nat := rs.flatMap Response.outputs

/-! ### Pseudo-instructions (R48) -/

/-- A 5-bit symbol as the operand of a data command. -/
def symbolImm (v : Symbol) : Imm := v.setWidth 12

/-- The pseudo-instructions of R48. -/
inductive Pseudo
  | cksep
  | ckpad8
  | ckpfxs (chars : List Imm)
  | cksyms (vs : List Symbol)
  | cvpushs (vs : List Imm)
  | rdstatus
  deriving DecidableEq, Repr

/-- Their expansions (R48). -/
def Pseudo.expand : Pseudo → List Instr
  | .cksep => [.cksym 0]
  | .ckpad8 => List.replicate 8 (.cksym 0)
  | .ckpfxs chars => chars.map .ckpfx
  | .cksyms vs => vs.map fun v => .cksym (symbolImm v)
  | .cvpushs vs => vs.map .cvpush
  | .rdstatus => [.rdreg .status]

/-! ### Command sequences (R69 to R71, R78, R86) -/

/-- `CKINIT m; CKSYM s0; …; CKSYM s(n-1); CKRES` (R69). -/
def residueRun (m : Mode) (vs : List Symbol) : List Instr :=
  [.ckinit m] ++ Pseudo.expand (.cksyms vs) ++ [.ckres]

/-- `CKINIT m; CKPFX p0; …; CKSYM 0; CKSYM y0; …; CKFIN` (R70 with `m` = VERIFY, R71 with `m` = COMPUTE). -/
def addressRun (m : Mode) (chars : List Imm) (payload : List Symbol) : List Instr :=
  [.ckinit m] ++ Pseudo.expand (.ckpfxs chars) ++ Pseudo.expand .cksep ++
    Pseudo.expand (.cksyms payload) ++ [.ckfin]

/-- `CVSTART d, s; CVPUSH x0; …; CVPUSH x(n-1); CVFLUSH` (R86). -/
def convertRun (d : Dir) (st : Strictness) (xs : List Imm) : List Instr :=
  [.cvstart d st] ++ Pseudo.expand (.cvpushs xs) ++ [.cvflush]

/-- `B32ENC v0; …; B32ENC v(n-1)`: CADDR's `encode` of a symbol sequence (R78). -/
def encodeRun (vs : List Symbol) : List Instr := vs.map fun v => .b32enc (symbolImm v)

/-- `B32DEC c0; …; B32DEC c(n-1)`: CADDR's `decode` of a character sequence (R78). -/
def decodeRun (chars : List Imm) : List Instr := chars.map .b32dec

/-- The data of the responses, each as the operand of a later command (R95, R100, R102). -/
def dataImms (rs : List Response) : List Imm := rs.map fun r => r.data.setWidth 12

/-! ### CADDR's functions -/

/-- `polystate` (R69). -/
def polystate (vs : List Symbol) : Word40 := vs.foldl fold 1

/-- `compute(symbols)`, the residue (R69). -/
def compute (vs : List Symbol) : Word40 := polystate vs ^^^ 1

/-- `prefixSymbols ++ [0] ++ payload` (R70, R71, R28). -/
def checksumInput (chars : List Imm) (payload : List Symbol) : List Symbol :=
  chars.map lowSymbol ++ [0] ++ payload

/-- The low five bits `n` times, each time shifting right by 5 (R27). -/
def lowDigits : Nat → Word40 → List Symbol
  | 0, _ => []
  | n + 1, r => r.extractLsb' 0 5 :: lowDigits n (r >>> 5)

/-- `toDigits(residue)`: eight digits, most significant first (R27, R66). -/
def toDigits (r : Word40) : List Symbol := (lowDigits 8 r).reverse

/-- `w` bits of a number, most significant first (R26). -/
def bitsOf (w n : Nat) : List Bool := (List.range w).map fun j => n.testBit (w - 1 - j)

/-- The number a bit string stands for, most significant bit first (R26). -/
def valueOf (bs : List Bool) : Nat := bs.foldl (fun n b => 2 * n + b.toNat) 0

/-- The bit string `S`: each input value as `w` bits, in input order (R26, R86). -/
def bitstream (w : Nat) (xs : List Nat) : List Bool := xs.flatMap (bitsOf w)

/-- Output `i` is the bits `S[i·TO .. (i+1)·TO - 1]`, for `i` below `S.length / TO` (R26, R86). -/
def wholeDigits (tw : Nat) (bs : List Bool) : List Nat :=
  (List.range (bs.length / tw)).map fun i => valueOf ((bs.drop (i * tw)).take tw)

/-- The last `S.length mod TO` bits (R86). -/
def leftoverBits (tw : Nat) (bs : List Bool) : List Bool := bs.drop (bs.length / tw * tw)

/-- `convert(x, FROM, TO, s)`, or `none` where it fails with `PaddingRequired` (R86). -/
def convert (d : Dir) (st : Strictness) (xs : List Nat) : Option (List Nat) :=
  let bs := bitstream (fromWidth d) xs
  let rest := leftoverBits (toWidth d) bs
  match st with
  | .loose =>
    some (wholeDigits (toWidth d) bs ++
      if rest = [] then [] else [valueOf (rest ++ List.replicate (toWidth d - rest.length) false)])
  | .strict =>
    if rest.length < fromWidth d ∧ rest.all (· == false) then some (wholeDigits (toWidth d) bs) else none

end Sys2Proof.Machine
end

