-- ==== Sys2Proof/Safety.lean ====
section
/-! DEFINITION. What counts as a legal state of the block (R17), what a fault leaves (R112), and the words claims use about runs. The block is halted when `ecause` is not 0, ready when it is 0 (R113). -/

namespace Sys2Proof.Machine

/-- The four items of R17. -/
structure State.Inv (s : State) : Prop where
  /-- Item 1: `BITS < TO`. -/
  bits_lt : s.bits.toNat < toWidth s.dir
  /-- Item 2: `ACC < 2^BITS`. -/
  acc_lt : s.acc.toNat < 2 ^ s.bits.toNat
  /-- Item 3: `ECAUSE <= 4`. -/
  ecause_le : s.ecause.toNat ≤ 4
  /-- Item 4: `MODE = 0` implies `VALID = 0`. -/
  valid_off : s.mode = .compute → s.valid = false

/-- The five registers of `t` are those of `s` (R10 to R14). -/
structure SameRegisters (s t : State) : Prop where
  c : t.c = s.c
  acc : t.acc = s.acc
  bits : t.bits = s.bits
  ctrl : t.ctrl = s.ctrl
  status : t.status = s.status

/-- `s` with one more response given and nothing else changed (R41). -/
def State.answered (s : State) (cause : BitVec 3) (cnt : BitVec 2) (data : Word40) : State :=
  { s with responses := s.responses ++ [⟨cause, cnt, data⟩] }

/-- `t` is `s` after a fault with cause code `k`: the cause is latched, every other register and the ports' input keep their values, and the response is (k, 0, 0) (R112). -/
structure Faulted (k : BitVec 3) (s t : State) : Prop where
  ecause : t.ecause = k
  valid : t.valid = s.valid
  c : t.c = s.c
  acc : t.acc = s.acc
  bits : t.bits = s.bits
  ctrl : t.ctrl = s.ctrl
  input : t.input = s.input
  responses : t.responses = s.responses ++ [⟨k, 0, 0⟩]

/-- The cause latched once a command has completed (R14). -/
def latchedAfter : Outcome → Option (BitVec 3)
  | .next t => some t.ecause
  | .fault _ => none
  | .refused _ => none

/-- The command word with the opcode `op` and the immediate `imm`, as a number: `(op << 12) | imm` (R40, R47). -/
def wordAt (op imm : Nat) : Word := BitVec.ofNat 16 (op * 4096 + imm)

/-- The run of `cmds` from `s` completes in `t`, the host having received exactly the responses `rs`, one per command, and nothing of what it had still to present being taken (R137). -/
structure Completes (cmds : List Instr) (s : State) (rs : List Response) (t : State) : Prop where
  run : runCommands cmds s = .next t
  responses : t.responses = s.responses ++ rs
  one_each : rs.length = cmds.length
  input : t.input = s.input

end Sys2Proof.Machine
end

