-- ==== Sys2Proof/Certificates/Slice0/Obligations.lean ====
section
/-! DEFINITION. The statements for the provers. Each docstring names the rules of spec/ it formalises. A state is ready when `ecause = 0` and halted otherwise (R113). -/

open Sys2Proof Sys2Proof.Machine

/-! ### Words and commands -/

/-- R42 to R44, R47: a word decodes to a command exactly when it is that command's encoding. -/
def Obligations.DecodeInvertsEncodeBothWays : Prop :=
  ∀ (w : Word) (i : Instr), decode w = .legal i ↔ encode i = w

/-- R42, R44: the words `decode` accepts are exactly those that select a row of the table, and no word selects two rows. -/
def Obligations.LegalWordsAreDisjointTableRows : Prop :=
  (∀ w, wellFormedWord w = true ↔ ∃ i, decode w = .legal i) ∧
  tableRows.Pairwise fun a b => ∀ w, ¬ (selectsRow w a = true ∧ selectsRow w b = true)

/-- R45: the illegal words are those listed; executing one faults `IllegalCommand` when the block is ready and is refused when it is halted; no word but 0x0000 is `NOP`. -/
def Obligations.IllegalWordsAreListedAndFault : Prop :=
  (∀ w : Word, decode w = .illegal ↔
    (w.toNat / 4096 = 0x3 ∨ w.toNat / 4096 = 0xF
      ∨ (w.toNat / 4096 ∈ [0x0, 0x2, 0x7, 0x8, 0xE] ∧ w.toNat % 4096 ≠ 0)
      ∨ (w.toNat / 4096 = 0x1 ∧ 5 ≤ w.toNat % 4096)
      ∨ (w.toNat / 4096 = 0x4 ∧ 2 ≤ w.toNat % 4096)
      ∨ (w.toNat / 4096 = 0x9 ∧ 8 ≤ w.toNat % 4096)
      ∨ (w.toNat / 4096 = 0xC ∧ 4 ≤ w.toNat % 4096))) ∧
  (∀ w : Word, decode w = .legal .nop ↔ w = 0x0000) ∧
  ∀ w s, decode w = .illegal →
    (s.ecause = 0 → ∃ t, execWord w s = .next t ∧ Faulted 4 s t) ∧
    (s.ecause ≠ 0 → execWord w s = .next (s.answered s.ecause 0 0))

/-- Words written out from the encodings of R42 (some of spec/95_test_vectors.md E1) decode to their commands. -/
def Obligations.SampleWordsDecodeAsTabled : Prop :=
  decode 0x0000 = .legal .nop ∧ decode 0x1004 = .legal (.rdreg .status) ∧ decode 0x1005 = .illegal ∧
  decode 0x2000 = .legal .clrerr ∧ decode 0x4001 = .legal (.ckinit .verify) ∧
  decode 0x5020 = .legal (.cksym 32) ∧ decode 0x6062 = .legal (.ckpfx 98) ∧
  decode 0x7001 = .illegal ∧ decode 0x9007 = .legal (.ckdig 7) ∧
  decode 0xA01F = .legal (.b32enc 31) ∧ decode 0xB071 = .legal (.b32dec 113) ∧
  decode 0xC002 = .legal (.cvstart .eightToFive .strict) ∧ decode 0xD100 = .legal (.cvpush 256) ∧
  decode 0xE000 = .legal .cvflush ∧ decode 0xF000 = .illegal

/-! ### The step -/

/-- R46, R55, R125: a step takes the host's oldest event; a command word is executed by `exec` of what it decodes to, an illegal one by `execIllegal`; `rst` resets, during a command too, and then gives at most one response. That the host's queue and record survive a reset is log 3, that the block waits when nothing is presented is log 4, the response of a command cut short is free (log 11). -/
def Obligations.StepRunsTheDecodedCommand : Prop :=
  ∀ s : State,
    (s.input = [] → step s = .next s) ∧
    (∀ rest, s.input = .rst :: rest →
      step s = .next { State.reset with input := rest, responses := s.responses, abandoned := s.abandoned }) ∧
    (∀ w rest, s.input = .cmdCutByRst w :: rest → ∃ rs : List Response, rs.length ≤ 1 ∧
      step s = .next { State.reset with
        input := rest, responses := s.responses ++ rs, abandoned := s.abandoned + 1 }) ∧
    (∀ w rest, s.input = .cmd w :: rest →
      (∀ i, decode w = .legal i → step s = exec i { s with input := rest }) ∧
      (decode w = .illegal → step s = execIllegal { s with input := rest })) ∧
    (∀ (w : Word) (i : Instr), decode w = .legal i → step (s.withFetchWord 16 w.toNat) = exec i s)

/-- R55 and spec/93_implementation_defined.md: "every command in every state completes with a response"; so every step answers a next state, and so does `exec` of every command, in every state, those outside R17 too (log 5). -/
def Obligations.EveryStepAndCommandCompletes : Prop :=
  (∀ s, ∃ t, step s = .next t) ∧ ∀ i s, ∃ t, exec i s = .next t

/-- R31, R32, R41: a step on a command word takes that word alone and gives exactly one response; a response with a cause carries no outputs and no data; from a state of R17 the cause is at most 4 and at most two outputs are carried. -/
def Obligations.EveryCommandWordGetsOneResponse : Prop :=
  ∀ s w rest, s.input = .cmd w :: rest → ∃ t r, step s = .next t ∧
    t.input = rest ∧ t.responses = s.responses ++ [r] ∧
    (r.cause ≠ 0 → r.cnt = 0 ∧ r.data = 0) ∧
    (s.Inv → r.cause.toNat ≤ 4 ∧ r.cnt.toNat ≤ 2)

/-! ### Reset and the invariant -/

/-- R18, R125: reset sets every register to its defined value, at start and whenever `rst` is asserted, between commands or during one. -/
def Obligations.ResetSetsEveryRegister : Prop :=
  (State.reset.c = 1 ∧ State.reset.acc = 0 ∧ State.reset.bits = 0 ∧ State.reset.mode = .compute ∧
    State.reset.dir = .eightToFive ∧ State.reset.strictness = .loose ∧ State.reset.ecause = 0 ∧
    State.reset.valid = false) ∧
  ∀ s rest, (s.input = .rst :: rest ∨ ∃ w, s.input = .cmdCutByRst w :: rest) →
    ∃ t, step s = .next t ∧ SameRegisters State.reset t ∧ t.input = rest

/-- R18's inference: `CLRERR; CKINIT 0; CVSTART 0, 0` from any state leaves the reset state's registers. -/
def Obligations.FreshStartSequenceReachesResetState : Prop :=
  ∀ s, ∃ rs t, Completes [.clrerr, .ckinit .compute, .cvstart .eightToFive .loose] s rs t ∧
    SameRegisters State.reset t

/-- R17 holds at reset. -/
def Obligations.InvariantHoldsAtReset : Prop := State.reset.Inv

/-- R17: every step keeps the four items, whatever the host presents. -/
def Obligations.EveryStepKeepsTheInvariant : Prop :=
  ∀ s t, s.Inv → step s = .next t → t.Inv

/-! ### Faults and the halted condition -/

/-- R111, R112: a fault latches its cause code if none is latched, writes nothing else, and responds with the code. -/
def Obligations.FaultLatchesTheFirstCauseOnly : Prop :=
  (Cause.code .outOfRange = 1 ∧ Cause.code .unknownSymbol = 2 ∧ Cause.code .paddingRequired = 3 ∧
    Cause.code .illegalCommand = 4) ∧
  ∀ k s, ∃ t, raise k s = .next t ∧
    t.ecause = (if s.ecause = 0 then k.code else s.ecause) ∧ t.valid = s.valid ∧
    t.c = s.c ∧ t.acc = s.acc ∧ t.bits = s.bits ∧ t.ctrl = s.ctrl ∧ t.input = s.input ∧
    t.responses = s.responses ++ [⟨k.code, 0, 0⟩]

/-- R110: from a ready state, each command leaves a cause latched exactly when the table says, and no other command leaves one. (The flush row is for states of R17 items 1 and 2, for which R85 is stated.) -/
def Obligations.FaultsAriseExactlyAsTabled : Prop :=
  ∀ s, s.ecause = 0 →
    (∀ v, latchedAfter (exec (.cksym v) s) = some (if 32 ≤ v.toNat then 1 else 0)) ∧
    (∀ v, latchedAfter (exec (.b32enc v) s) = some (if 32 ≤ v.toNat then 1 else 0)) ∧
    (∀ v, latchedAfter (exec (.cvpush v) s) =
      some (if (if s.dir = .eightToFive then 256 else 32) ≤ v.toNat then 1 else 0)) ∧
    (∀ ch, latchedAfter (exec (.b32dec ch) s) =
      some (if ∃ code ∈ alphabet, code.toNat = ch.toNat then 0 else 2)) ∧
    (s.bufferOk = true → latchedAfter (exec .cvflush s) =
      some (if s.strictness = .strict ∧ ¬ (s.bits.toNat < fromWidth s.dir ∧
        s.acc.toNat * 2 ^ (toWidth s.dir - s.bits.toNat) % 2 ^ toWidth s.dir = 0) then 3 else 0)) ∧
    (∀ w, decode w = .illegal → latchedAfter (execWord w s) = some 4) ∧
    (latchedAfter (exec .nop s) = some 0 ∧ (∀ r, latchedAfter (exec (.rdreg r) s) = some 0) ∧
      latchedAfter (exec .clrerr s) = some 0 ∧ (∀ m, latchedAfter (exec (.ckinit m) s) = some 0) ∧
      (∀ ch, latchedAfter (exec (.ckpfx ch) s) = some 0) ∧ latchedAfter (exec .ckfin s) = some 0 ∧
      latchedAfter (exec .ckres s) = some 0 ∧ (∀ k, latchedAfter (exec (.ckdig k) s) = some 0) ∧
      ∀ d st, latchedAfter (exec (.cvstart d st) s) = some 0)

/-- R113: while halted every command but `NOP`, `RDREG` and `CLRERR`, and every illegal word, is refused with the latched cause; the three execute; and no program without `CLRERR` changes any register. -/
def Obligations.HaltedBlockRefusesAndIsQuiescent : Prop :=
  ∀ s, s.ecause ≠ 0 →
    (∀ i, i ≠ .nop → i ≠ .clrerr → (∀ r, i ≠ .rdreg r) →
      exec i s = .next (s.answered s.ecause 0 0)) ∧
    (∀ w, decode w = .illegal → execWord w s = .next (s.answered s.ecause 0 0)) ∧
    exec .nop s = .next (s.answered 0 0 0) ∧
    (∀ r, exec (.rdreg r) s = .next (s.answered 0 0 (readReg r s))) ∧
    (∃ t, exec .clrerr s = .next t ∧ t.ecause = 0 ∧ t.responses = s.responses ++ [⟨0, 0, 0⟩]) ∧
    ∀ ws : List Word, (0x2000 : Word) ∉ ws → ∃ t, runProgram ws s = .next t ∧ SameRegisters s t

/-- R115: the only ways out of the halted condition are `CLRERR`, which sets `ECAUSE` to 0 and changes nothing else, and reset; after a fault and `CLRERR` the registers are those before the faulting command. -/
def Obligations.OnlyClrerrOrResetLeavesHalted : Prop :=
  (∀ s t, s.ecause ≠ 0 → step s = .next t → t.ecause = 0 →
    ∃ rest, s.input = .cmd 0x2000 :: rest ∨ s.input = .rst :: rest ∨ ∃ w, s.input = .cmdCutByRst w :: rest) ∧
  (∀ s, ∃ t, exec .clrerr s = .next t ∧ t.ecause = 0 ∧ t.valid = s.valid ∧ t.c = s.c ∧ t.acc = s.acc ∧
    t.bits = s.bits ∧ t.ctrl = s.ctrl) ∧
  (∀ s rest, (s.input = .rst :: rest ∨ ∃ w, s.input = .cmdCutByRst w :: rest) →
    ∃ t, step s = .next t ∧ t.ecause = 0) ∧
  ∀ k s, s.ecause = 0 → ∃ t u, raise k s = .next t ∧ exec .clrerr t = .next u ∧ SameRegisters s u

/-- R137's clean run, for programs without `CLRERR` (log 10): from a ready state every response has cause 0 exactly when no fault is latched at the end. -/
def Obligations.CleanRunIffNothingLatchedAtEnd : Prop :=
  ∀ (ws : List Word) s, s.ecause = 0 → (0x2000 : Word) ∉ ws →
    ∃ t rs, runProgram ws s = .next t ∧ t.responses = s.responses ++ rs ∧ rs.length = ws.length ∧
      ((∀ r ∈ rs, r.cause = 0) ↔ t.ecause = 0)

/-! ### System commands -/

/-- R56: `NOP`. -/
def Obligations.NopRespondsAndChangesNothing : Prop :=
  (∀ imm < 4096, decode (wordAt 0x0 imm) = if imm = 0 then .legal .nop else .illegal) ∧
  ∀ s, exec .nop s = .next (s.answered 0 0 0)

/-- R19, R57: `RDREG r` returns the register zero-extended, in every state, and changes nothing. -/
def Obligations.RdregReturnsTheNumberedRegister : Prop :=
  (decode 0x1000 = .legal (.rdreg .c) ∧ decode 0x1001 = .legal (.rdreg .acc) ∧
    decode 0x1002 = .legal (.rdreg .bits) ∧ decode 0x1003 = .legal (.rdreg .ctrl) ∧
    decode 0x1004 = .legal (.rdreg .status)) ∧
  (∀ imm < 4096, 5 ≤ imm → decode (wordAt 0x1 imm) = .illegal) ∧
  ∀ s, exec (.rdreg .c) s = .next (s.answered 0 0 s.c) ∧
    exec (.rdreg .acc) s = .next (s.answered 0 0 (BitVec.ofNat 40 s.acc.toNat)) ∧
    exec (.rdreg .bits) s = .next (s.answered 0 0 (BitVec.ofNat 40 s.bits.toNat)) ∧
    exec (.rdreg .ctrl) s = .next (s.answered 0 0
      (BitVec.ofNat 40 (4 * s.strictness.bit.toNat + 2 * s.dir.bit.toNat + s.mode.bit.toNat))) ∧
    exec (.rdreg .status) s = .next (s.answered 0 0
      (BitVec.ofNat 40 (8 * s.valid.toNat + s.ecause.toNat)))

/-- R58: `CLRERR` clears `ECAUSE` and nothing else, in every state. -/
def Obligations.ClrerrClearsTheLatchOnly : Prop :=
  (∀ imm < 4096, decode (wordAt 0x2 imm) = if imm = 0 then .legal .clrerr else .illegal) ∧
  ∀ s, ∃ t, exec .clrerr s = .next t ∧ t.ecause = 0 ∧ t.valid = s.valid ∧ t.c = s.c ∧ t.acc = s.acc ∧
    t.bits = s.bits ∧ t.ctrl = s.ctrl ∧ t.input = s.input ∧ t.responses = s.responses ++ [⟨0, 0, 0⟩]

/-! ### Checksum engine -/

/-- R3, R60: bit `j` of `fold(c, v)`: the shifted state and the symbol, with bit `j` of `G[i]` for every set bit `i` of `top`. -/
def Obligations.FoldBitByBit : Prop :=
  ∀ (c : Word40) (v : Symbol) (j : Nat), j < 40 →
    (fold c v).getLsbD j =
      ((if j < 5 then v.getLsbD j else c.getLsbD (j - 5))
        ^^ (c.getLsbD 35 && (0x98f2bc8e61#40).getLsbD j)
        ^^ (c.getLsbD 36 && (0x79b76d99e2#40).getLsbD j)
        ^^ (c.getLsbD 37 && (0xf33e5fb3c4#40).getLsbD j)
        ^^ (c.getLsbD 38 && (0xae2eabe2a8#40).getLsbD j)
        ^^ (c.getLsbD 39 && (0x1e4f43e470#40).getLsbD j))

/-- R68: `fold` is linear over exclusive or. -/
def Obligations.FoldIsLinear : Prop :=
  ∀ (a b : Word40) (v w : Symbol), fold (a ^^^ b) (v ^^^ w) = fold a v ^^^ fold b w

/-- R73's argument: folding the symbol 0 is a bijection of the 40-bit states. -/
def Obligations.FoldingZeroIsABijection : Prop :=
  Function.Bijective fun c : Word40 => fold c 0

/-- R61: `CKINIT m`. -/
def Obligations.CkinitStartsARun : Prop :=
  (∀ imm < 4096, decode (wordAt 0x4 imm) =
    if imm = 0 then .legal (.ckinit .compute) else if imm = 1 then .legal (.ckinit .verify) else .illegal) ∧
  ∀ m s,
    (s.ecause ≠ 0 → exec (.ckinit m) s = .next (s.answered s.ecause 0 0)) ∧
    (s.ecause = 0 → ∃ t, exec (.ckinit m) s = .next t ∧ t.c = 1 ∧ t.mode = m ∧ t.valid = false ∧
      t.dir = s.dir ∧ t.strictness = s.strictness ∧ t.ecause = s.ecause ∧ t.acc = s.acc ∧
      t.bits = s.bits ∧ t.input = s.input ∧ t.responses = s.responses ++ [⟨0, 0, 1⟩])

/-- R62: `CKSYM v`. -/
def Obligations.CksymFoldsOneSymbol : Prop :=
  (∀ imm < 4096, decode (wordAt 0x5 imm) = .legal (.cksym (BitVec.ofNat 12 imm))) ∧
  ∀ (v : Imm) s,
    (s.ecause ≠ 0 → exec (.cksym v) s = .next (s.answered s.ecause 0 0)) ∧
    (s.ecause = 0 → v.toNat < 32 → exec (.cksym v) s = .next
      { s with c := fold s.c (BitVec.ofNat 5 v.toNat),
               responses := s.responses ++ [⟨0, 0, fold s.c (BitVec.ofNat 5 v.toNat)⟩] }) ∧
    (s.ecause = 0 → 32 ≤ v.toNat → ∃ t, exec (.cksym v) s = .next t ∧ Faulted 1 s t)

/-- R28, R63: `CKPFX ch` folds the low five bits of the character code and never faults on its operand. -/
def Obligations.CkpfxFoldsTheLowFiveBits : Prop :=
  (∀ imm < 4096, decode (wordAt 0x6 imm) = .legal (.ckpfx (BitVec.ofNat 12 imm))) ∧
  ∀ (ch : Imm) s,
    (s.ecause ≠ 0 → exec (.ckpfx ch) s = .next (s.answered s.ecause 0 0)) ∧
    (s.ecause = 0 → exec (.ckpfx ch) s = .next
      { s with c := fold s.c (BitVec.ofNat 5 (ch.toNat % 32)),
               responses := s.responses ++ [⟨0, 0, fold s.c (BitVec.ofNat 5 (ch.toNat % 32))⟩] }) ∧
    exec (.ckpfx ch) s = exec (.cksym (BitVec.ofNat 12 (ch.toNat % 32))) s

/-- R64: `CKFIN` in both modes; a verify result of 0 latches nothing. -/
def Obligations.CkfinPadsOrVerifies : Prop :=
  (∀ imm < 4096, decode (wordAt 0x7 imm) = if imm = 0 then .legal .ckfin else .illegal) ∧
  ∀ s,
    (s.ecause ≠ 0 → exec .ckfin s = .next (s.answered s.ecause 0 0)) ∧
    (s.ecause = 0 → s.mode = .compute →
      let c8 := fold (fold (fold (fold (fold (fold (fold (fold s.c 0) 0) 0) 0) 0) 0) 0) 0
      exec .ckfin s = .next { s with c := c8, responses := s.responses ++ [⟨0, 0, c8 ^^^ 1⟩] }) ∧
    (s.ecause = 0 → s.mode = .verify → ∃ t, exec .ckfin s = .next t ∧
      t.valid = decide (s.c = 1) ∧ t.ecause = 0 ∧ t.c = s.c ∧ t.acc = s.acc ∧ t.bits = s.bits ∧
      t.ctrl = s.ctrl ∧ t.input = s.input ∧
      t.responses = s.responses ++ [⟨0, 0, if s.c = 1 then 1 else 0⟩])

/-- R65: `CKRES`. -/
def Obligations.CkresReturnsTheResidue : Prop :=
  (∀ imm < 4096, decode (wordAt 0x8 imm) = if imm = 0 then .legal .ckres else .illegal) ∧
  ∀ s,
    (s.ecause ≠ 0 → exec .ckres s = .next (s.answered s.ecause 0 0)) ∧
    (s.ecause = 0 → exec .ckres s = .next (s.answered 0 0 (s.c ^^^ 1)))

/-- R27, R66: `CKDIG k` returns digit `k` of the residue, bits `39-5k : 35-5k`, and these digits in order are `toDigits`, the low five bits taken eight times and reversed. -/
def Obligations.CkdigReadsMostSignificantFirst : Prop :=
  (∀ imm < 4096, decode (wordAt 0x9 imm) =
    if imm < 8 then .legal (.ckdig (BitVec.ofNat 3 imm)) else .illegal) ∧
  (∀ (k : BitVec 3) s,
    (s.ecause ≠ 0 → exec (.ckdig k) s = .next (s.answered s.ecause 0 0)) ∧
    (s.ecause = 0 → exec (.ckdig k) s = .next
      (s.answered 0 0 (((s.c ^^^ 1) >>> (5 * (7 - k.toNat))) &&& 0x1f)))) ∧
  ∀ r : Word40, toDigits r = (List.range 8).map fun k => r.extractLsb' (35 - 5 * k) 5

/-- R69: the run `CKINIT m; CKSYM …; CKRES` ends with `C = polystate` and returns `compute`. -/
def Obligations.ChecksumRunComputesTheResidue : Prop :=
  ∀ m (vs : List Symbol) s, s.ecause = 0 → ∃ rs t, Completes (residueRun m vs) s rs t ∧
    t.c = polystate vs ∧ rs.getLast? = some ⟨0, 0, compute vs⟩ ∧ t.ecause = 0 ∧
    t.acc = s.acc ∧ t.bits = s.bits

/-- R70: a verify run ends with `VALID` and the response saying whether the residue of the whole input is 0; a result of 0 is no fault. -/
def Obligations.VerifyRunDecidesTheResidue : Prop :=
  ∀ (chars : List Imm) (payload : List Symbol) s, s.ecause = 0 →
    ∃ rs t, Completes (addressRun .verify chars payload) s rs t ∧ t.ecause = 0 ∧
      (t.valid = true ↔ compute (checksumInput chars payload) = 0) ∧
      rs.getLast? = some ⟨0, 0, if compute (checksumInput chars payload) = 0 then 1 else 0⟩

/-- R71: a compute run returns the residue over the payload and eight zeros, and `CKDIG k` then reads its digits. -/
def Obligations.ComputeRunGivesTheChecksumDigits : Prop :=
  ∀ (chars : List Imm) (payload : List Symbol) s, s.ecause = 0 →
    let r := compute (checksumInput chars payload ++ List.replicate 8 0)
    ∃ rs t, Completes (addressRun .compute chars payload) s rs t ∧ t.ecause = 0 ∧
      rs.getLast? = some ⟨0, 0, r⟩ ∧
      ∀ k : BitVec 3, exec (.ckdig k) t = .next (t.answered 0 0 ((r >>> (5 * (7 - k.toNat))) &&& 0x1f))

/-- R72: the digits of a compute run, appended to the payload, make the verify run of the same characters say valid. -/
def Obligations.ComputedDigitsMakeTheAddressVerify : Prop :=
  ∀ (chars : List Imm) (payload : List Symbol) s, s.ecause = 0 →
    ∃ rs t r, Completes (addressRun .compute chars payload) s rs t ∧ rs.getLast? = some ⟨0, 0, r⟩ ∧
      ∃ rs' u, Completes (addressRun .verify chars (payload ++ toDigits r)) t rs' u ∧
        u.valid = true ∧ u.ecause = 0 ∧ rs'.getLast? = some ⟨0, 0, 1⟩

/-- R73: changing exactly one payload digit of a verifying address always makes it fail, without a fault; and two symbol sequences that differ in one place never have the same residue. -/
def Obligations.OneChangedDigitIsAlwaysDetected : Prop :=
  (∀ (xs ys : List Symbol) (a b : Symbol), a ≠ b → compute (xs ++ a :: ys) ≠ compute (xs ++ b :: ys)) ∧
  ∀ (chars : List Imm) (xs ys : List Symbol) (a b : Symbol) s, s.ecause = 0 → a ≠ b →
    ∃ rs t rs' u, Completes (addressRun .verify chars (xs ++ a :: ys)) s rs t ∧
      Completes (addressRun .verify chars (xs ++ b :: ys)) s rs' u ∧
      (t.valid = true → u.valid = false ∧ u.ecause = 0 ∧ rs'.getLast? = some ⟨0, 0, 0⟩)

/-- R48's inference: in COMPUTE mode `CKPAD8; CKRES` ends as `CKFIN` does, in registers and in the last response. -/
def Obligations.HostPaddingEqualsCkfin : Prop :=
  ∀ s, s.ecause = 0 → s.mode = .compute →
    ∃ rs t rs' u, Completes (Pseudo.expand .ckpad8 ++ [.ckres]) s rs t ∧ Completes [.ckfin] s rs' u ∧
      SameRegisters t u ∧ rs.getLast? = rs'.getLast?

/-! ### Base32 codec -/

/-- R75 with the table of R4, six entries of which the spec takes from general knowledge (log 6): `B32ENC v`. -/
def Obligations.B32encLooksUpTheAlphabet : Prop :=
  (∀ imm < 4096, decode (wordAt 0xA imm) = .legal (.b32enc (BitVec.ofNat 12 imm))) ∧
  ∀ (v : Imm) s,
    (s.ecause ≠ 0 → exec (.b32enc v) s = .next (s.answered s.ecause 0 0)) ∧
    (s.ecause = 0 → v.toNat < 32 → exec (.b32enc v) s = .next (s.answered 0 0 (BitVec.ofNat 40
      ([0x71, 0x70, 0x7a, 0x72, 0x79, 0x39, 0x78, 0x38, 0x67, 0x66, 0x32, 0x74, 0x76, 0x64, 0x77, 0x30,
        0x73, 0x33, 0x6a, 0x6e, 0x35, 0x34, 0x6b, 0x68, 0x63, 0x65, 0x36, 0x6d, 0x75, 0x61, 0x37, 0x6c].getD
        v.toNat 0)))) ∧
    (s.ecause = 0 → 32 ≤ v.toNat → ∃ t, exec (.b32enc v) s = .next t ∧ Faulted 1 s t)

/-- R76, over the model's alphabet (log 6): `B32DEC ch` returns the index of the character, or faults `UnknownSymbol`. -/
def Obligations.B32decInvertsTheAlphabet : Prop :=
  (∀ imm < 4096, decode (wordAt 0xB imm) = .legal (.b32dec (BitVec.ofNat 12 imm))) ∧
  ∀ (ch : Imm) s,
    (s.ecause ≠ 0 → exec (.b32dec ch) s = .next (s.answered s.ecause 0 0)) ∧
    (s.ecause = 0 → ∀ v : Symbol, (alphabetCode v).toNat = ch.toNat →
      exec (.b32dec ch) s = .next (s.answered 0 0 (BitVec.ofNat 40 v.toNat))) ∧
    (s.ecause = 0 → (∀ v : Symbol, (alphabetCode v).toNat ≠ ch.toNat) →
      ∃ t, exec (.b32dec ch) s = .next t ∧ Faulted 2 s t)

/-- R77: the two commands are inverse on their ranges, by their responses. -/
def Obligations.B32CommandsAreInverse : Prop :=
  ∀ s, s.ecause = 0 →
    (∀ v : Symbol, ∃ code : CharCode,
      exec (.b32enc (v.setWidth 12)) s = .next (s.answered 0 0 (code.setWidth 40)) ∧
      exec (.b32dec (code.setWidth 12)) s = .next (s.answered 0 0 (v.setWidth 40))) ∧
    ∀ (ch : Imm) t, exec (.b32dec ch) s = .next t → t.ecause = 0 →
      ∃ v : Symbol, t = s.answered 0 0 (v.setWidth 40) ∧
        exec (.b32enc (v.setWidth 12)) s = .next (s.answered 0 0 (ch.setWidth 40))

/-- R78: the characters of a symbol sequence, one `B32ENC` each, decode to the sequence again, one `B32DEC` each; after the first unknown character every later command is refused with `UnknownSymbol` and gives no data. -/
def Obligations.DecodingStopsAtTheFirstUnknownCharacter : Prop :=
  ∀ (vs : List Symbol) s, s.ecause = 0 →
    ∃ rs t, Completes (encodeRun vs) s rs t ∧ SameRegisters s t ∧
      (∃ u, Completes (decodeRun (dataImms rs)) t (vs.map fun v => ⟨0, 0, v.setWidth 40⟩) u ∧ SameRegisters t u) ∧
      ∀ (bad : Imm) (post : List Imm), (∀ v : Symbol, (alphabetCode v).setWidth 12 ≠ bad) →
        ∃ u, Completes (decodeRun (dataImms rs ++ bad :: post)) t
          ((vs.map fun v => ⟨0, 0, v.setWidth 40⟩) ++ List.replicate (post.length + 1) ⟨2, 0, 0⟩) u ∧
          u.ecause = 2

/-! ### Bit-width converter -/

/-- R83: `CVSTART d, s`. -/
def Obligations.CvstartStartsAConversion : Prop :=
  (∀ imm < 4096, decode (wordAt 0xC imm) =
    if imm = 0 then .legal (.cvstart .eightToFive .loose)
    else if imm = 1 then .legal (.cvstart .fiveToEight .loose)
    else if imm = 2 then .legal (.cvstart .eightToFive .strict)
    else if imm = 3 then .legal (.cvstart .fiveToEight .strict) else .illegal) ∧
  ∀ d st s,
    (s.ecause ≠ 0 → exec (.cvstart d st) s = .next (s.answered s.ecause 0 0)) ∧
    (s.ecause = 0 → ∃ t, exec (.cvstart d st) s = .next t ∧ t.dir = d ∧ t.strictness = st ∧ t.acc = 0 ∧
      t.bits = 0 ∧ t.mode = s.mode ∧ t.c = s.c ∧ t.status = s.status ∧ t.input = s.input ∧
      t.responses = s.responses ++ [⟨0, 0, 0⟩])

/-- R82, R84: `CVPUSH v`, in arithmetic. With `n` buffered bits holding the number `N` after the push, it emits `n / TO` outputs, the top TO bits first, and keeps the last `n mod TO` bits. -/
def Obligations.CvpushEmitsTheTopBits : Prop :=
  (∀ imm < 4096, decode (wordAt 0xD imm) = .legal (.cvpush (BitVec.ofNat 12 imm))) ∧
  (fromWidth .eightToFive = 8 ∧ toWidth .eightToFive = 5 ∧ fromWidth .fiveToEight = 5 ∧
    toWidth .fiveToEight = 8) ∧
  ∀ (v : Imm) s,
    (s.ecause ≠ 0 → exec (.cvpush v) s = .next (s.answered s.ecause 0 0)) ∧
    (s.ecause = 0 → 2 ^ fromWidth s.dir ≤ v.toNat → ∃ t, exec (.cvpush v) s = .next t ∧ Faulted 1 s t) ∧
    (s.ecause = 0 → v.toNat < 2 ^ fromWidth s.dir → s.bits.toNat < toWidth s.dir →
      s.acc.toNat < 2 ^ s.bits.toNat →
      let n := s.bits.toNat + fromWidth s.dir
      let N := s.acc.toNat * 2 ^ fromWidth s.dir + v.toNat
      let out := fun j : Nat => N / 2 ^ (n - (j + 1) * toWidth s.dir) % 2 ^ toWidth s.dir
      exec (.cvpush v) s = .next
        { s with
          acc := BitVec.ofNat 13 (N % 2 ^ (n % toWidth s.dir))
          bits := BitVec.ofNat 4 (n % toWidth s.dir)
          responses := s.responses ++ [⟨0, BitVec.ofNat 2 (n / toWidth s.dir), BitVec.ofNat 40
            (if n / toWidth s.dir = 0 then 0
             else if n / toWidth s.dir = 1 then out 0 else out 0 + 256 * out 1)⟩] })

/-- R84's table: the number of outputs of one push and the bits left depend on `DIR` and `BITS` alone. -/
def Obligations.OutputsPerPushAsTabled : Prop :=
  ∀ row ∈ ([(.eightToFive, 0, 1, 3), (.eightToFive, 1, 1, 4), (.eightToFive, 2, 2, 0),
      (.eightToFive, 3, 2, 1), (.eightToFive, 4, 2, 2),
      (.fiveToEight, 0, 0, 5), (.fiveToEight, 1, 0, 6), (.fiveToEight, 2, 0, 7), (.fiveToEight, 3, 1, 0),
      (.fiveToEight, 4, 1, 1), (.fiveToEight, 5, 1, 2), (.fiveToEight, 6, 1, 3), (.fiveToEight, 7, 1, 4)] :
      List (Dir × Nat × Nat × Nat)),
    ∀ (v : Imm) s, s.ecause = 0 → s.dir = row.1 → s.bits.toNat = row.2.1 →
      s.acc.toNat < 2 ^ s.bits.toNat → v.toNat < 2 ^ fromWidth s.dir →
      ∃ t data, exec (.cvpush v) s = .next t ∧ t.bits.toNat = row.2.2.2 ∧
        t.responses = s.responses ++ [⟨0, BitVec.ofNat 2 row.2.2.1, data⟩]

/-- R85: `CVFLUSH`: the padding policy in both modes, with the buffer cleared on normal completion and kept on `PaddingRequired`. -/
def Obligations.CvflushAppliesThePaddingPolicy : Prop :=
  (∀ imm < 4096, decode (wordAt 0xE imm) = if imm = 0 then .legal .cvflush else .illegal) ∧
  ∀ s,
    (s.ecause ≠ 0 → exec .cvflush s = .next (s.answered s.ecause 0 0)) ∧
    (s.ecause = 0 → s.bits.toNat < toWidth s.dir → s.acc.toNat < 2 ^ s.bits.toNat →
      let pad := s.acc.toNat * 2 ^ (toWidth s.dir - s.bits.toNat) % 2 ^ toWidth s.dir
      (s.strictness = .loose → exec .cvflush s = .next
        { s with acc := 0, bits := 0, responses := s.responses ++
          [if 0 < s.bits.toNat then ⟨0, 1, BitVec.ofNat 40 pad⟩ else ⟨0, 0, 0⟩] }) ∧
      (s.strictness = .strict → s.bits.toNat < fromWidth s.dir ∧ pad = 0 → exec .cvflush s = .next
        { s with acc := 0, bits := 0, responses := s.responses ++ [⟨0, 0, 0⟩] }) ∧
      (s.strictness = .strict → ¬ (s.bits.toNat < fromWidth s.dir ∧ pad = 0) →
        ∃ t, exec .cvflush s = .next t ∧ Faulted 3 s t))

/-- R26, R86: the conversion run produces exactly CADDR's `convert`, defined on the bit string, and faults `PaddingRequired` at the flush exactly when `convert` fails, having emitted the whole outputs and keeping the leftover bits. -/
def Obligations.ConversionRunComputesConvert : Prop :=
  ∀ d st (xs : List Imm) s, s.ecause = 0 → (∀ x ∈ xs, x.toNat < 2 ^ fromWidth d) →
    ∃ rs t, Completes (convertRun d st xs) s rs t ∧ t.c = s.c ∧ t.valid = s.valid ∧ t.mode = s.mode ∧
      match convert d st (xs.map BitVec.toNat) with
      | some outs => outputsOf rs = outs ∧ t.ecause = 0 ∧ t.acc = 0 ∧ t.bits = 0
      | none =>
        let bs := bitstream (fromWidth d) (xs.map BitVec.toNat)
        rs.getLast? = some ⟨3, 0, 0⟩ ∧ t.ecause = 3 ∧ outputsOf rs = wholeDigits (toWidth d) bs ∧
          t.bits.toNat = (leftoverBits (toWidth d) bs).length ∧
          t.acc.toNat = valueOf (leftoverBits (toWidth d) bs)

/-- R86's last sentence: an input out of range faults `OutOfRange` where it is pushed, and every later command of the run is refused. -/
def Obligations.ConversionStopsAtAnInputOutOfRange : Prop :=
  ∀ d st (xs post : List Imm) (bad : Imm) s, s.ecause = 0 → (∀ x ∈ xs, x.toNat < 2 ^ fromWidth d) →
    2 ^ fromWidth d ≤ bad.toNat →
    ∃ rs t, Completes (convertRun d st (xs ++ bad :: post)) s
      (rs ++ List.replicate (post.length + 2) ⟨1, 0, 0⟩) t ∧ t.ecause = 1 ∧ ∀ r ∈ rs, r.cause = 0

/-- R88: for every byte sequence, converting 8-to-5 non-strict and the result 5-to-8 strict succeeds and gives the bytes back. -/
def Obligations.ByteConversionRoundTrips : Prop :=
  ∀ (bytes : List (BitVec 8)) s, s.ecause = 0 →
    ∃ rs t rs' u,
      Completes (convertRun .eightToFive .loose (bytes.map fun b => b.setWidth 12)) s rs t ∧
      Completes (convertRun .fiveToEight .strict ((outputsOf rs).map fun n => BitVec.ofNat 12 n)) t rs' u ∧
      outputsOf rs' = bytes.map BitVec.toNat ∧ u.ecause = 0

/-- R99's round trip, for the block's part of `Encode` (R100) and `Decode` (R102), which the spec derives from R72, R77, R88: bytes converted to digits, given checksum digits and turned into characters are, turned back into digits, an address that verifies under the same prefix, and its payload converts back to the bytes. -/
def Obligations.AddressRoundTrips : Prop :=
  ∀ (chars : List Imm) (bytes : List (BitVec 8)) s, s.ecause = 0 →
    ∃ r₁ s₁, Completes (convertRun .eightToFive .loose (bytes.map fun b => b.setWidth 12)) s r₁ s₁ ∧
    let payload5 : List Symbol := (outputsOf r₁).map fun n => BitVec.ofNat 5 n
    ∃ r₂ s₂ residue, Completes (addressRun .compute chars payload5) s₁ r₂ s₂ ∧
      r₂.getLast? = some ⟨0, 0, residue⟩ ∧
    ∃ r₃ s₃, Completes (encodeRun (payload5 ++ toDigits residue)) s₂ r₃ s₃ ∧
    ∃ r₄ s₄, Completes (decodeRun (dataImms r₃)) s₃ r₄ s₄ ∧
    let full : List Symbol := r₄.map fun r => r.data.setWidth 5
    ∃ r₅ s₅, Completes (addressRun .verify chars full) s₄ r₅ s₅ ∧ r₅.getLast? = some ⟨0, 0, 1⟩ ∧
    ∃ r₆ s₆, Completes (convertRun .fiveToEight .strict ((full.take (full.length - 8)).map symbolImm)) s₅ r₆ s₆ ∧
      s₆.ecause = 0 ∧ outputsOf r₆ = bytes.map BitVec.toNat

/-- R87: a strict 5-to-8 conversion of `n` digits with `n mod 8` in 1, 3, 6 faults `PaddingRequired` whatever the digits are. -/
def Obligations.StrictConversionRejectsBadLengths : Prop :=
  ∀ (xs : List Imm) s, s.ecause = 0 → (∀ x ∈ xs, x.toNat < 32) → xs.length % 8 ∈ [1, 3, 6] →
    ∃ rs t, Completes (convertRun .fiveToEight .strict xs) s rs t ∧ t.ecause = 3 ∧
      rs.getLast? = some ⟨3, 0, 0⟩

/-! ### Whole-machine rules -/

/-- R10 to R14, "written by": which commands can change each register or field, in every state. -/
def Obligations.OnlyTheNamedCommandsWriteEachRegister : Prop :=
  ∀ i s t, exec i s = .next t →
    t.input = s.input ∧ t.abandoned = s.abandoned ∧
    (t.c ≠ s.c → (∃ m, i = .ckinit m) ∨ (∃ v, i = .cksym v) ∨ (∃ ch, i = .ckpfx ch) ∨
      (i = .ckfin ∧ s.mode = .compute)) ∧
    (t.acc ≠ s.acc ∨ t.bits ≠ s.bits →
      (∃ d st, i = .cvstart d st) ∨ (∃ v, i = .cvpush v) ∨ i = .cvflush) ∧
    (t.mode ≠ s.mode → i = .ckinit t.mode) ∧
    (t.dir ≠ s.dir ∨ t.strictness ≠ s.strictness → i = .cvstart t.dir t.strictness) ∧
    (t.valid ≠ s.valid → (∃ m, i = .ckinit m) ∨ (i = .ckfin ∧ s.mode = .verify)) ∧
    (t.ecause ≠ s.ecause → i = .clrerr ∨ s.ecause = 0)

/-- R134: `MODE`, `DIR` and `STRICT` are sticky: a program changes `MODE` only with a `CKINIT` in it, and `DIR` or `STRICT` only with a `CVSTART` in it. -/
def Obligations.ModeAndDirectionAreSticky : Prop :=
  ∀ (ws : List Word) s, ∃ t, runProgram ws s = .next t ∧
    ((∀ w ∈ ws, ∀ m, decode w ≠ .legal (.ckinit m)) → t.mode = s.mode) ∧
    ((∀ w ∈ ws, ∀ d st, decode w ≠ .legal (.cvstart d st)) → t.dir = s.dir ∧ t.strictness = s.strictness)

/-- R31: the reading commands change no register when they do not fault, and repeating one gives the same response; `CKFIN` in VERIFY mode is idempotent. -/
def Obligations.ReadingCommandsHaveNoSideEffects : Prop :=
  ∀ i s t, (i = .nop ∨ (∃ r, i = .rdreg r) ∨ i = .ckres ∨ (∃ k, i = .ckdig k) ∨ (∃ v, i = .b32enc v) ∨
      ∃ ch, i = .b32dec ch) ∨ (i = .ckfin ∧ s.mode = .verify) →
    exec i s = .next t → t.ecause = s.ecause →
    (i ≠ .ckfin → SameRegisters s t) ∧
    ∃ u r, exec i t = .next u ∧ SameRegisters t u ∧
      t.responses = s.responses ++ [r] ∧ u.responses = t.responses ++ [r]

/-- R35: while no fault is latched, a checksum or base32 command and a converter command that do not fault can be exchanged: each gets the same response and the registers end the same. -/
def Obligations.UnitsDoNotDisturbEachOther : Prop :=
  ∀ i j s s₁ s₂, s.ecause = 0 →
    (∃ m v k, i ∈ [.ckinit m, .cksym v, .ckpfx v, .ckfin, .ckres, .ckdig k, .b32enc v, .b32dec v]) →
    (∃ d st v, j ∈ [.cvstart d st, .cvpush v, .cvflush]) →
    exec i s = .next s₁ → s₁.ecause = 0 → exec j s = .next s₂ → s₂.ecause = 0 →
    ∃ r r' t u, Completes [i, j] s [r, r'] t ∧ Completes [j, i] s [r', r] u ∧ SameRegisters t u
end

