-- ==== Sys2Proof/Laws/BitString.lean ====
section
/-! SUPPORT. Bit strings as the converter reads them (R26), and what the loop of `CVPUSH` does to one (R84). -/

namespace Sys2Proof.Machine

/-- Reading on from `n`: the bits already read are shifted up. -/
theorem foldl_valueOf (bs : List Bool) : ∀ n, bs.foldl (fun n b => 2 * n + b.toNat) n = n * 2 ^ bs.length + valueOf bs := by
  induction bs with
  | nil => intro n; simp [valueOf]
  | cons b bs ih =>
    intro n
    simp only [List.foldl_cons, List.length_cons, valueOf]
    rw [ih, ih]; ring

/-- A concatenation's number. -/
theorem valueOf_append (a b : List Bool) : valueOf (a ++ b) = valueOf a * 2 ^ b.length + valueOf b := by
  rw [valueOf, List.foldl_append, foldl_valueOf]; rfl

theorem valueOf_cons (a : Bool) (b : List Bool) : valueOf (a :: b) = a.toNat * 2 ^ b.length + valueOf b := by
  rw [show a :: b = [a] ++ b from rfl, valueOf_append]; simp [valueOf]

theorem valueOf_lt (bs : List Bool) : valueOf bs < 2 ^ bs.length := by
  induction bs with
  | nil => simp [valueOf]
  | cons b bs ih =>
    rw [valueOf_cons, List.length_cons, pow_succ]
    have : b.toNat ≤ 1 := Bool.toNat_le b
    nlinarith [Nat.two_pow_pos bs.length]

theorem bitsOf_length (w n) : (bitsOf w n).length = w := by simp [bitsOf]

theorem bitsOf_succ (w n) : bitsOf (w+1) n = n.testBit w :: bitsOf w n := by
  simp only [bitsOf, List.range_succ_eq_map, List.map_cons, List.map_map]
  congr 1
  apply List.map_congr_left
  intro j hj
  simp only [Function.comp]
  congr 1
  omega

/-- Writing a number as `w` bits and reading it back keeps its low `w` bits. -/
theorem valueOf_bitsOf (w n : Nat) : valueOf (bitsOf w n) = n % 2 ^ w := by
  induction w with
  | zero => simp [bitsOf, valueOf, Nat.mod_one]
  | succ w ih =>
    rw [bitsOf_succ, valueOf_cons, bitsOf_length, ih, Nat.mod_pow_succ, Nat.testBit_eq_decide_div_mod_eq, Nat.mul_comm, Nat.add_comm]
    rcases Nat.mod_two_eq_zero_or_one (n / 2 ^ w) with h | h <;> simp [h]

theorem wholeDigits_nil (tw) : wholeDigits tw [] = [] := by simp [wholeDigits]
theorem wholeDigits_of_short {tw : Nat} {bs : List Bool} (h : bs.length < tw) : wholeDigits tw bs = [] := by simp [wholeDigits, Nat.div_eq_of_lt h]
theorem leftoverBits_of_short {tw : Nat} {bs : List Bool} (h : bs.length < tw) : leftoverBits tw bs = bs := by simp [leftoverBits, Nat.div_eq_of_lt h]
/-- The first digit is the first `tw` bits (R26). -/
theorem wholeDigits_step {tw : Nat} {bs : List Bool} (h0 : 0 < tw) (h : tw ≤ bs.length) : wholeDigits tw bs = valueOf (bs.take tw) :: wholeDigits tw (bs.drop tw) := by
  have : bs.length / tw = (bs.length - tw) / tw + 1 := Nat.div_eq_sub_div h0 h
  simp only [wholeDigits, this, List.range_succ_eq_map, List.map_cons, List.map_map, List.length_drop]
  simp only [Nat.zero_mul, List.drop_zero]
  congr 1
  apply List.map_congr_left
  intro j hj
  simp only [Function.comp, List.drop_drop]
  congr 3
  rw [Nat.succ_mul]; omega
theorem leftoverBits_step {tw : Nat} {bs : List Bool} (h0 : 0 < tw) (h : tw ≤ bs.length) : leftoverBits tw bs = leftoverBits tw (bs.drop tw) := by
  have : bs.length / tw = (bs.length - tw) / tw + 1 := Nat.div_eq_sub_div h0 h
  simp only [leftoverBits, this, List.length_drop, List.drop_drop]
  congr 1; rw [Nat.succ_mul]; omega

theorem leftoverBits_length {tw : Nat} {bs : List Bool} : (leftoverBits tw bs).length = bs.length % tw := by
  simp only [leftoverBits, List.length_drop]
  have := Nat.div_add_mod bs.length tw
  have h2 : bs.length / tw * tw = tw * (bs.length / tw) := Nat.mul_comm _ _
  omega

/-- Digits of a concatenation: those of the first part, then those of its leftover with the rest. So a buffer may keep only the leftover (R84, R86). -/
theorem wholeDigits_append {tw : Nat} (h0 : 0 < tw) (b : List Bool) : ∀ (n : Nat) (a : List Bool), a.length ≤ n →
   wholeDigits tw (a ++ b) = wholeDigits tw a ++ wholeDigits tw (leftoverBits tw a ++ b) ∧ leftoverBits tw (a ++ b) = leftoverBits tw (leftoverBits tw a ++ b) := by
  intro n
  induction n with
  | zero => intro a ha; have : a = [] := by simpa using ha
            subst this; simp [wholeDigits_nil, leftoverBits]
  | succ n ih =>
    intro a ha
    by_cases h : tw ≤ a.length
    · obtain ⟨i1, i2⟩ := ih (a.drop tw) (by simp; omega)
      have hl : tw ≤ (a ++ b).length := by simp; omega
      rw [wholeDigits_step h0 hl, wholeDigits_step h0 h, leftoverBits_step h0 hl, leftoverBits_step h0 h, List.take_append_of_le_length h, List.drop_append_of_le_length h, i1, ← i2]
      exact ⟨by simp, rfl⟩
    · rw [wholeDigits_of_short (by omega : a.length < tw), leftoverBits_of_short (by omega : a.length < tw)]; simp

/-- What the loop of `CVPUSH` does to a buffer that holds the bit string `bs`: it emits the whole digits and keeps the leftover (R84). -/
theorem emitLoop_eq {tw : Nat} (h0 : 0 < tw) : ∀ (fuel : Nat) (bs : List Bool), bs.length ≤ fuel →
    emitLoop tw fuel (valueOf bs) bs.length = ⟨wholeDigits tw bs, valueOf (leftoverBits tw bs), (leftoverBits tw bs).length⟩ := by
  intro fuel
  induction fuel with
  | zero => intro bs h; have : bs = [] := by simpa using h
            subst this; simp [emitLoop, wholeDigits_nil, leftoverBits]
  | succ fuel ih =>
    intro bs h
    unfold emitLoop
    by_cases ht : tw ≤ bs.length
    · rw [if_pos ht]
      have hd : (bs.drop tw).length = bs.length - tw := by simp
      have e1 : valueOf bs = valueOf (bs.take tw) * 2 ^ (bs.length - tw) + valueOf (bs.drop tw) := by
        conv_lhs => rw [← List.take_append_drop tw bs]
        rw [valueOf_append, hd]
      have hlt := valueOf_lt (bs.drop tw)
      have hlt2 := valueOf_lt (bs.take tw)
      rw [hd] at hlt
      rw [List.length_take, Nat.min_eq_left ht] at hlt2
      have e2 : valueOf bs &&& mask (bs.length - tw) = valueOf (bs.drop tw) := by
        rw [mask, Nat.and_two_pow_sub_one_eq_mod, e1, Nat.mul_comm, Nat.mul_add_mod, Nat.mod_eq_of_lt hlt]
      have e3 : (valueOf bs >>> (bs.length - tw)) &&& mask tw = valueOf (bs.take tw) := by
        rw [mask, Nat.and_two_pow_sub_one_eq_mod, Nat.shiftRight_eq_div_pow, e1, Nat.mul_comm, Nat.mul_add_div (Nat.two_pow_pos _), Nat.div_eq_of_lt hlt, Nat.add_zero, Nat.mod_eq_of_lt hlt2]
      have := ih (bs.drop tw) (by omega)
      rw [hd] at this
      simp only [e2, e3, this]
      rw [wholeDigits_step h0 ht, leftoverBits_step h0 ht]
    · rw [if_neg ht, wholeDigits_of_short (by omega), leftoverBits_of_short (by omega)]

end Sys2Proof.Machine
end

