-- ==== Sys2Proof/Laws/Decode.lean ====
section
/-! SUPPORT. The two fields of a command word, read and put together, and `decode` on a word given by its fields. -/

namespace Sys2Proof

theorem opField_toNat (w : Word) : (opField w).toNat = w.toNat / 4096 := by
  have := w.isLt
  simp only [opField, BitVec.extractLsb'_toNat, Nat.shiftRight_eq_div_pow]
  omega

theorem immField_toNat (w : Word) : (immField w).toNat = w.toNat % 4096 := by
  simp [immField, BitVec.extractLsb'_toNat]

theorem commandWord_toNat (op : Opcode) (imm : Imm) :
    (commandWord op imm).toNat = op.toNat * 4096 + imm.toNat := by
  have := imm.isLt
  simp only [commandWord, BitVec.toNat_append]
  rw [Nat.shiftLeft_eq, Nat.mul_comm, ← Nat.two_pow_add_eq_or_of_lt this]

@[simp] theorem opField_commandWord (op : Opcode) (imm : Imm) : opField (commandWord op imm) = op := by
  apply BitVec.eq_of_toNat_eq
  have := imm.isLt
  rw [opField_toNat, commandWord_toNat]; omega

@[simp] theorem immField_commandWord (op : Opcode) (imm : Imm) : immField (commandWord op imm) = imm := by
  apply BitVec.eq_of_toNat_eq
  have := imm.isLt
  rw [immField_toNat, commandWord_toNat]; omega

@[simp] theorem commandWord_opField_immField (w : Word) : commandWord (opField w) (immField w) = w := by
  apply BitVec.eq_of_toNat_eq
  rw [commandWord_toNat, opField_toNat, immField_toNat]; omega

theorem Machine.wordAt_eq_commandWord {op imm : Nat} (hi : imm < 4096) :
    Machine.wordAt op imm = commandWord (BitVec.ofNat 4 op) (BitVec.ofNat 12 imm) := by
  apply BitVec.eq_of_toNat_eq
  rw [commandWord_toNat]
  simp only [Machine.wordAt, BitVec.toNat_ofNat]
  omega

@[simp] theorem Reg.ofNumber?_number (r : Reg) : Reg.ofNumber? r.number.toNat = some r := by cases r <;> rfl

theorem Reg.ofNumber?_eq_some {n : Nat} {r : Reg} (h : Reg.ofNumber? n = some r) : n = r.number.toNat := by
  unfold Reg.ofNumber? at h
  split at h <;> cases h <;> rfl

theorem Reg.ofNumber?_eq_none {n : Nat} : Reg.ofNumber? n = none ↔ 5 ≤ n := by
  constructor
  · intro h
    by_contra hn
    interval_cases n <;> simp [Reg.ofNumber?] at h
  · intro h
    unfold Reg.ofNumber?
    split <;> first | omega | rfl

end Sys2Proof
end

