-- ==== Sys2Proof/Laws/State.lean ====
section
/-! SUPPORT. One lemma per field per update of the state, so that no later proof unfolds a record update; and the fields of CTRL and STATUS after each update of them. -/

namespace Sys2Proof.Machine

variable (s : State)

@[simp] theorem State.setC_c (v : Word40) : (s.setC v).c = v := rfl
@[simp] theorem State.setC_acc (v : Word40) : (s.setC v).acc = s.acc := rfl
@[simp] theorem State.setC_bits (v : Word40) : (s.setC v).bits = s.bits := rfl
@[simp] theorem State.setC_ctrl (v : Word40) : (s.setC v).ctrl = s.ctrl := rfl
@[simp] theorem State.setC_status (v : Word40) : (s.setC v).status = s.status := rfl
@[simp] theorem State.setC_input (v : Word40) : (s.setC v).input = s.input := rfl
@[simp] theorem State.setC_responses (v : Word40) : (s.setC v).responses = s.responses := rfl
@[simp] theorem State.setC_abandoned (v : Word40) : (s.setC v).abandoned = s.abandoned := rfl
@[simp] theorem State.setC_mode (v : Word40) : (s.setC v).mode = s.mode := rfl
@[simp] theorem State.setC_dir (v : Word40) : (s.setC v).dir = s.dir := rfl
@[simp] theorem State.setC_strictness (v : Word40) : (s.setC v).strictness = s.strictness := rfl
@[simp] theorem State.setC_ecause (v : Word40) : (s.setC v).ecause = s.ecause := rfl
@[simp] theorem State.setC_valid (v : Word40) : (s.setC v).valid = s.valid := rfl

@[simp] theorem State.setAcc_c (v : BitVec 13) : (s.setAcc v).c = s.c := rfl
@[simp] theorem State.setAcc_acc (v : BitVec 13) : (s.setAcc v).acc = v := rfl
@[simp] theorem State.setAcc_bits (v : BitVec 13) : (s.setAcc v).bits = s.bits := rfl
@[simp] theorem State.setAcc_ctrl (v : BitVec 13) : (s.setAcc v).ctrl = s.ctrl := rfl
@[simp] theorem State.setAcc_status (v : BitVec 13) : (s.setAcc v).status = s.status := rfl
@[simp] theorem State.setAcc_input (v : BitVec 13) : (s.setAcc v).input = s.input := rfl
@[simp] theorem State.setAcc_responses (v : BitVec 13) : (s.setAcc v).responses = s.responses := rfl
@[simp] theorem State.setAcc_abandoned (v : BitVec 13) : (s.setAcc v).abandoned = s.abandoned := rfl
@[simp] theorem State.setAcc_mode (v : BitVec 13) : (s.setAcc v).mode = s.mode := rfl
@[simp] theorem State.setAcc_dir (v : BitVec 13) : (s.setAcc v).dir = s.dir := rfl
@[simp] theorem State.setAcc_strictness (v : BitVec 13) : (s.setAcc v).strictness = s.strictness := rfl
@[simp] theorem State.setAcc_ecause (v : BitVec 13) : (s.setAcc v).ecause = s.ecause := rfl
@[simp] theorem State.setAcc_valid (v : BitVec 13) : (s.setAcc v).valid = s.valid := rfl

@[simp] theorem State.setBits_c (v : BitVec 4) : (s.setBits v).c = s.c := rfl
@[simp] theorem State.setBits_acc (v : BitVec 4) : (s.setBits v).acc = s.acc := rfl
@[simp] theorem State.setBits_bits (v : BitVec 4) : (s.setBits v).bits = v := rfl
@[simp] theorem State.setBits_ctrl (v : BitVec 4) : (s.setBits v).ctrl = s.ctrl := rfl
@[simp] theorem State.setBits_status (v : BitVec 4) : (s.setBits v).status = s.status := rfl
@[simp] theorem State.setBits_input (v : BitVec 4) : (s.setBits v).input = s.input := rfl
@[simp] theorem State.setBits_responses (v : BitVec 4) : (s.setBits v).responses = s.responses := rfl
@[simp] theorem State.setBits_abandoned (v : BitVec 4) : (s.setBits v).abandoned = s.abandoned := rfl
@[simp] theorem State.setBits_mode (v : BitVec 4) : (s.setBits v).mode = s.mode := rfl
@[simp] theorem State.setBits_dir (v : BitVec 4) : (s.setBits v).dir = s.dir := rfl
@[simp] theorem State.setBits_strictness (v : BitVec 4) : (s.setBits v).strictness = s.strictness := rfl
@[simp] theorem State.setBits_ecause (v : BitVec 4) : (s.setBits v).ecause = s.ecause := rfl
@[simp] theorem State.setBits_valid (v : BitVec 4) : (s.setBits v).valid = s.valid := rfl

@[simp] theorem State.setMode_c (m : Mode) : (s.setMode m).c = s.c := rfl
@[simp] theorem State.setMode_acc (m : Mode) : (s.setMode m).acc = s.acc := rfl
@[simp] theorem State.setMode_bits (m : Mode) : (s.setMode m).bits = s.bits := rfl
@[simp] theorem State.setMode_status (m : Mode) : (s.setMode m).status = s.status := rfl
@[simp] theorem State.setMode_input (m : Mode) : (s.setMode m).input = s.input := rfl
@[simp] theorem State.setMode_responses (m : Mode) : (s.setMode m).responses = s.responses := rfl
@[simp] theorem State.setMode_abandoned (m : Mode) : (s.setMode m).abandoned = s.abandoned := rfl
@[simp] theorem State.setMode_ecause (m : Mode) : (s.setMode m).ecause = s.ecause := rfl
@[simp] theorem State.setMode_valid (m : Mode) : (s.setMode m).valid = s.valid := rfl

@[simp] theorem State.setConversion_c (d : Dir) (st : Strictness) : (s.setConversion d st).c = s.c := rfl
@[simp] theorem State.setConversion_acc (d : Dir) (st : Strictness) : (s.setConversion d st).acc = s.acc := rfl
@[simp] theorem State.setConversion_bits (d : Dir) (st : Strictness) : (s.setConversion d st).bits = s.bits := rfl
@[simp] theorem State.setConversion_status (d : Dir) (st : Strictness) : (s.setConversion d st).status = s.status := rfl
@[simp] theorem State.setConversion_input (d : Dir) (st : Strictness) : (s.setConversion d st).input = s.input := rfl
@[simp] theorem State.setConversion_responses (d : Dir) (st : Strictness) : (s.setConversion d st).responses = s.responses := rfl
@[simp] theorem State.setConversion_abandoned (d : Dir) (st : Strictness) : (s.setConversion d st).abandoned = s.abandoned := rfl
@[simp] theorem State.setConversion_ecause (d : Dir) (st : Strictness) : (s.setConversion d st).ecause = s.ecause := rfl
@[simp] theorem State.setConversion_valid (d : Dir) (st : Strictness) : (s.setConversion d st).valid = s.valid := rfl

@[simp] theorem State.setEcause_c (k : BitVec 3) : (s.setEcause k).c = s.c := rfl
@[simp] theorem State.setEcause_acc (k : BitVec 3) : (s.setEcause k).acc = s.acc := rfl
@[simp] theorem State.setEcause_bits (k : BitVec 3) : (s.setEcause k).bits = s.bits := rfl
@[simp] theorem State.setEcause_ctrl (k : BitVec 3) : (s.setEcause k).ctrl = s.ctrl := rfl
@[simp] theorem State.setEcause_input (k : BitVec 3) : (s.setEcause k).input = s.input := rfl
@[simp] theorem State.setEcause_responses (k : BitVec 3) : (s.setEcause k).responses = s.responses := rfl
@[simp] theorem State.setEcause_abandoned (k : BitVec 3) : (s.setEcause k).abandoned = s.abandoned := rfl
@[simp] theorem State.setEcause_mode (k : BitVec 3) : (s.setEcause k).mode = s.mode := rfl
@[simp] theorem State.setEcause_dir (k : BitVec 3) : (s.setEcause k).dir = s.dir := rfl
@[simp] theorem State.setEcause_strictness (k : BitVec 3) : (s.setEcause k).strictness = s.strictness := rfl

@[simp] theorem State.setValid_c (b : Bool) : (s.setValid b).c = s.c := rfl
@[simp] theorem State.setValid_acc (b : Bool) : (s.setValid b).acc = s.acc := rfl
@[simp] theorem State.setValid_bits (b : Bool) : (s.setValid b).bits = s.bits := rfl
@[simp] theorem State.setValid_ctrl (b : Bool) : (s.setValid b).ctrl = s.ctrl := rfl
@[simp] theorem State.setValid_input (b : Bool) : (s.setValid b).input = s.input := rfl
@[simp] theorem State.setValid_responses (b : Bool) : (s.setValid b).responses = s.responses := rfl
@[simp] theorem State.setValid_abandoned (b : Bool) : (s.setValid b).abandoned = s.abandoned := rfl
@[simp] theorem State.setValid_mode (b : Bool) : (s.setValid b).mode = s.mode := rfl
@[simp] theorem State.setValid_dir (b : Bool) : (s.setValid b).dir = s.dir := rfl
@[simp] theorem State.setValid_strictness (b : Bool) : (s.setValid b).strictness = s.strictness := rfl

@[simp] theorem State.emit_c (r : Response) : (s.emit r).c = s.c := rfl
@[simp] theorem State.emit_acc (r : Response) : (s.emit r).acc = s.acc := rfl
@[simp] theorem State.emit_bits (r : Response) : (s.emit r).bits = s.bits := rfl
@[simp] theorem State.emit_ctrl (r : Response) : (s.emit r).ctrl = s.ctrl := rfl
@[simp] theorem State.emit_status (r : Response) : (s.emit r).status = s.status := rfl
@[simp] theorem State.emit_input (r : Response) : (s.emit r).input = s.input := rfl
@[simp] theorem State.emit_responses (r : Response) : (s.emit r).responses = s.responses ++ [r] := rfl
@[simp] theorem State.emit_abandoned (r : Response) : (s.emit r).abandoned = s.abandoned := rfl
@[simp] theorem State.emit_mode (r : Response) : (s.emit r).mode = s.mode := rfl
@[simp] theorem State.emit_dir (r : Response) : (s.emit r).dir = s.dir := rfl
@[simp] theorem State.emit_strictness (r : Response) : (s.emit r).strictness = s.strictness := rfl
@[simp] theorem State.emit_ecause (r : Response) : (s.emit r).ecause = s.ecause := rfl
@[simp] theorem State.emit_valid (r : Response) : (s.emit r).valid = s.valid := rfl

@[simp] theorem State.takeEvent_c (es : List PortEvent) : (s.takeEvent es).c = s.c := rfl
@[simp] theorem State.takeEvent_acc (es : List PortEvent) : (s.takeEvent es).acc = s.acc := rfl
@[simp] theorem State.takeEvent_bits (es : List PortEvent) : (s.takeEvent es).bits = s.bits := rfl
@[simp] theorem State.takeEvent_ctrl (es : List PortEvent) : (s.takeEvent es).ctrl = s.ctrl := rfl
@[simp] theorem State.takeEvent_status (es : List PortEvent) : (s.takeEvent es).status = s.status := rfl
@[simp] theorem State.takeEvent_input (es : List PortEvent) : (s.takeEvent es).input = es := rfl
@[simp] theorem State.takeEvent_responses (es : List PortEvent) : (s.takeEvent es).responses = s.responses := rfl
@[simp] theorem State.takeEvent_abandoned (es : List PortEvent) : (s.takeEvent es).abandoned = s.abandoned := rfl
@[simp] theorem State.takeEvent_mode (es : List PortEvent) : (s.takeEvent es).mode = s.mode := rfl
@[simp] theorem State.takeEvent_dir (es : List PortEvent) : (s.takeEvent es).dir = s.dir := rfl
@[simp] theorem State.takeEvent_strictness (es : List PortEvent) : (s.takeEvent es).strictness = s.strictness := rfl
@[simp] theorem State.takeEvent_ecause (es : List PortEvent) : (s.takeEvent es).ecause = s.ecause := rfl
@[simp] theorem State.takeEvent_valid (es : List PortEvent) : (s.takeEvent es).valid = s.valid := rfl

@[simp] theorem State.presentAll_c (ws : List Word) : (s.presentAll ws).c = s.c := rfl
@[simp] theorem State.presentAll_acc (ws : List Word) : (s.presentAll ws).acc = s.acc := rfl
@[simp] theorem State.presentAll_bits (ws : List Word) : (s.presentAll ws).bits = s.bits := rfl
@[simp] theorem State.presentAll_ctrl (ws : List Word) : (s.presentAll ws).ctrl = s.ctrl := rfl
@[simp] theorem State.presentAll_status (ws : List Word) : (s.presentAll ws).status = s.status := rfl
@[simp] theorem State.presentAll_input (ws : List Word) : (s.presentAll ws).input = ws.map PortEvent.cmd ++ s.input := rfl
@[simp] theorem State.presentAll_responses (ws : List Word) : (s.presentAll ws).responses = s.responses := rfl
@[simp] theorem State.presentAll_abandoned (ws : List Word) : (s.presentAll ws).abandoned = s.abandoned := rfl
@[simp] theorem State.presentAll_mode (ws : List Word) : (s.presentAll ws).mode = s.mode := rfl
@[simp] theorem State.presentAll_dir (ws : List Word) : (s.presentAll ws).dir = s.dir := rfl
@[simp] theorem State.presentAll_strictness (ws : List Word) : (s.presentAll ws).strictness = s.strictness := rfl
@[simp] theorem State.presentAll_ecause (ws : List Word) : (s.presentAll ws).ecause = s.ecause := rfl
@[simp] theorem State.presentAll_valid (ws : List Word) : (s.presentAll ws).valid = s.valid := rfl

theorem ctrl_setMode_fields (x : BitVec 3) (m : Bool) :
    (x.extractLsb' 1 2 ++ BitVec.ofBool m).getLsbD 0 = m ∧
    (x.extractLsb' 1 2 ++ BitVec.ofBool m).getLsbD 1 = x.getLsbD 1 ∧
    (x.extractLsb' 1 2 ++ BitVec.ofBool m).getLsbD 2 = x.getLsbD 2 := by
  revert x m; decide

theorem ctrl_setConversion_fields (x : BitVec 3) (d st : Bool) :
    (BitVec.ofBool st ++ BitVec.ofBool d ++ x.extractLsb' 0 1).getLsbD 0 = x.getLsbD 0 ∧
    (BitVec.ofBool st ++ BitVec.ofBool d ++ x.extractLsb' 0 1).getLsbD 1 = d ∧
    (BitVec.ofBool st ++ BitVec.ofBool d ++ x.extractLsb' 0 1).getLsbD 2 = st := by
  revert x d st; decide

theorem status_setEcause_fields (x : BitVec 4) (k : BitVec 3) :
    (x.extractLsb' 3 1 ++ k).extractLsb' 0 3 = k ∧ (x.extractLsb' 3 1 ++ k).getLsbD 3 = x.getLsbD 3 := by
  revert x k; decide

theorem status_setValid_fields (x : BitVec 4) (b : Bool) :
    (BitVec.ofBool b ++ x.extractLsb' 0 3).extractLsb' 0 3 = x.extractLsb' 0 3 ∧
    (BitVec.ofBool b ++ x.extractLsb' 0 3).getLsbD 3 = b := by
  revert x b; decide

@[simp] theorem Mode.ofBit_bit (m : Mode) : Mode.ofBit m.bit = m := by cases m <;> rfl
@[simp] theorem Dir.ofBit_bit (d : Dir) : Dir.ofBit d.bit = d := by cases d <;> rfl
@[simp] theorem Strictness.ofBit_bit (st : Strictness) : Strictness.ofBit st.bit = st := by cases st <;> rfl
@[simp] theorem Mode.bit_ofBit (b : Bool) : (Mode.ofBit b).bit = b := by cases b <;> rfl
@[simp] theorem Dir.bit_ofBit (b : Bool) : (Dir.ofBit b).bit = b := by cases b <;> rfl
@[simp] theorem Strictness.bit_ofBit (b : Bool) : (Strictness.ofBit b).bit = b := by cases b <;> rfl

@[simp] theorem State.setMode_mode (m : Mode) : (s.setMode m).mode = m :=
  (congrArg Mode.ofBit (ctrl_setMode_fields s.ctrl m.bit).1).trans (Mode.ofBit_bit m)
@[simp] theorem State.setMode_dir (m : Mode) : (s.setMode m).dir = s.dir :=
  congrArg Dir.ofBit (ctrl_setMode_fields s.ctrl m.bit).2.1
@[simp] theorem State.setMode_strictness (m : Mode) : (s.setMode m).strictness = s.strictness :=
  congrArg Strictness.ofBit (ctrl_setMode_fields s.ctrl m.bit).2.2

@[simp] theorem State.setConversion_mode (d : Dir) (st : Strictness) : (s.setConversion d st).mode = s.mode :=
  congrArg Mode.ofBit (ctrl_setConversion_fields s.ctrl d.bit st.bit).1
@[simp] theorem State.setConversion_dir (d : Dir) (st : Strictness) : (s.setConversion d st).dir = d :=
  (congrArg Dir.ofBit (ctrl_setConversion_fields s.ctrl d.bit st.bit).2.1).trans (Dir.ofBit_bit d)
@[simp] theorem State.setConversion_strictness (d : Dir) (st : Strictness) : (s.setConversion d st).strictness = st :=
  (congrArg Strictness.ofBit (ctrl_setConversion_fields s.ctrl d.bit st.bit).2.2).trans (Strictness.ofBit_bit st)

@[simp] theorem State.setEcause_ecause (k : BitVec 3) : (s.setEcause k).ecause = k :=
  (status_setEcause_fields s.status k).1
@[simp] theorem State.setEcause_valid (k : BitVec 3) : (s.setEcause k).valid = s.valid :=
  (status_setEcause_fields s.status k).2

@[simp] theorem State.setValid_ecause (b : Bool) : (s.setValid b).ecause = s.ecause :=
  (status_setValid_fields s.status b).1
@[simp] theorem State.setValid_valid (b : Bool) : (s.setValid b).valid = b :=
  (status_setValid_fields s.status b).2

/-- CTRL is its three fields. -/
theorem ctrl_eq_of_fields (s t : State) (hm : t.mode = s.mode) (hd : t.dir = s.dir)
    (hs : t.strictness = s.strictness) : t.ctrl = s.ctrl := by
  have hm' := congrArg Mode.bit hm
  have hd' := congrArg Dir.bit hd
  have hs' := congrArg Strictness.bit hs
  simp only [State.mode, State.dir, State.strictness, Mode.bit_ofBit, Dir.bit_ofBit, Strictness.bit_ofBit] at hm' hd' hs'
  generalize t.ctrl = x at *
  generalize s.ctrl = y at *
  revert x y; decide

/-- STATUS is its two fields. -/
theorem status_eq_of_fields (s t : State) (hv : t.valid = s.valid) (he : t.ecause = s.ecause) :
    t.status = s.status := by
  simp only [State.valid, State.ecause] at hv he
  generalize t.status = x at *
  generalize s.status = y at *
  revert x y; decide

end Sys2Proof.Machine
end

