-- ==== Sys2Proof/Laws/Ops.lean ====
section
/-! SUPPORT. What the shared operations of Sys2Proof/Machine/Ops.lean can do, said once. -/

namespace Sys2Proof.Machine

variable {s t : State} {k : Cause} {work : State → Outcome}

theorem State.latch_of_ready (h : s.ecause = 0) : s.latch k = s.setEcause k.code := if_pos h

theorem State.latch_of_halted (h : s.ecause ≠ 0) : s.latch k = s := if_neg h

@[simp] theorem State.latch_c : (s.latch k).c = s.c := by unfold State.latch; split <;> rfl
@[simp] theorem State.latch_acc : (s.latch k).acc = s.acc := by unfold State.latch; split <;> rfl
@[simp] theorem State.latch_bits : (s.latch k).bits = s.bits := by unfold State.latch; split <;> rfl
@[simp] theorem State.latch_ctrl : (s.latch k).ctrl = s.ctrl := by unfold State.latch; split <;> rfl
@[simp] theorem State.latch_input : (s.latch k).input = s.input := by unfold State.latch; split <;> rfl
@[simp] theorem State.latch_abandoned : (s.latch k).abandoned = s.abandoned := by unfold State.latch; split <;> rfl
@[simp] theorem State.latch_responses : (s.latch k).responses = s.responses := by
  unfold State.latch; split <;> rfl
@[simp] theorem State.latch_valid : (s.latch k).valid = s.valid := by
  unfold State.latch; split <;> simp
@[simp] theorem State.latch_ecause : (s.latch k).ecause = if s.ecause = 0 then k.code else s.ecause := by
  unfold State.latch; split <;> simp

theorem Cause.code_ne_zero (k : Cause) : k.code ≠ 0 := by cases k <;> decide

theorem respond_eq_next_iff {data : Word40} {cnt : BitVec 2} :
    respond data cnt s = .next t ↔ t = s.emit ⟨0, cnt, data⟩ := by
  simp [respond, eq_comm]

theorem raise_eq_next_iff : raise k s = .next t ↔ t = (s.latch k).emit ⟨k.code, 0, 0⟩ := by
  simp [raise, eq_comm]

theorem refuseHalted_eq : refuseHalted s = .next (s.answered s.ecause 0 0) := rfl

theorem respond_eq {data : Word40} {cnt : BitVec 2} : respond data cnt s = .next (s.answered 0 cnt data) := rfl

theorem whenReady_of_ready (h : s.ecause = 0) : whenReady work s = work s := if_pos h

theorem whenReady_of_halted (h : s.ecause ≠ 0) : whenReady work s = .next (s.answered s.ecause 0 0) := if_neg h

/-- The halted gate: the work runs, or the command is refused and only a response is added. -/
theorem whenReady_cases (h : whenReady work s = .next t) :
    (s.ecause = 0 ∧ work s = .next t) ∨ (s.ecause ≠ 0 ∧ t = s.answered s.ecause 0 0) := by
  by_cases h0 : s.ecause = 0
  · exact .inl ⟨h0, by rwa [whenReady_of_ready h0] at h⟩
  · exact .inr ⟨h0, by simpa [whenReady_of_halted h0, eq_comm] using h⟩

/-- The gate completes wherever its work does. -/
theorem whenReady_completes (h : ∃ t, work s = .next t) : ∃ t, whenReady work s = .next t := by
  by_cases h0 : s.ecause = 0
  · simpa [whenReady_of_ready h0] using h
  · exact ⟨_, whenReady_of_halted h0⟩

@[simp] theorem State.answered_c {a b d} : (s.answered a b d).c = s.c := rfl
@[simp] theorem State.answered_acc {a b d} : (s.answered a b d).acc = s.acc := rfl
@[simp] theorem State.answered_bits {a b d} : (s.answered a b d).bits = s.bits := rfl
@[simp] theorem State.answered_ctrl {a b d} : (s.answered a b d).ctrl = s.ctrl := rfl
@[simp] theorem State.answered_status {a b d} : (s.answered a b d).status = s.status := rfl
@[simp] theorem State.answered_input {a b d} : (s.answered a b d).input = s.input := rfl
@[simp] theorem State.answered_responses {a b d} :
    (s.answered a b d).responses = s.responses ++ [⟨a, b, d⟩] := rfl
@[simp] theorem State.answered_abandoned {a b d} : (s.answered a b d).abandoned = s.abandoned := rfl
@[simp] theorem State.answered_mode {a b d} : (s.answered a b d).mode = s.mode := rfl
@[simp] theorem State.answered_dir {a b d} : (s.answered a b d).dir = s.dir := rfl
@[simp] theorem State.answered_strictness {a b d} : (s.answered a b d).strictness = s.strictness := rfl
@[simp] theorem State.answered_ecause {a b d} : (s.answered a b d).ecause = s.ecause := rfl
@[simp] theorem State.answered_valid {a b d} : (s.answered a b d).valid = s.valid := rfl

/-- Everything a reset during a command can leave: the reset state's registers, and at most one response. -/
theorem State.abandon_eq (s : State) : ∃ rs : List Response, rs.length ≤ 1 ∧ s.abandon =
    { State.reset with input := s.input, responses := s.responses ++ rs, abandoned := s.abandoned + 1 } := by
  unfold State.abandon
  cases h : Config.abandonedResponse s.abandoned with
  | none => exact ⟨[], by simp, by simp [State.applyReset]⟩
  | some r => exact ⟨[⟨r.1, r.2.1, r.2.2⟩], by simp, by simp [State.applyReset, State.emit]⟩

theorem State.emit_eq_answered (r : Response) : s.emit r = s.answered r.cause r.cnt r.data := rfl

end Sys2Proof.Machine
end

