-- ==== Sys2Proof/Laws/PerInstr.lean ====
section
/-! SUPPORT. One lemma per command: its encoding selects a row of the opcode table that bears its mnemonic (R42). -/

namespace Sys2Proof.Laws.EncodingIsTableRow

/-- The mnemonic of a command, as spec/opcode_table.json spells it. -/
def mnemonic : Instr → String
  | .nop => "NOP"
  | .rdreg _ => "RDREG"
  | .clrerr => "CLRERR"
  | .ckinit _ => "CKINIT"
  | .cksym _ => "CKSYM"
  | .ckpfx _ => "CKPFX"
  | .ckfin => "CKFIN"
  | .ckres => "CKRES"
  | .ckdig _ => "CKDIG"
  | .b32enc _ => "B32ENC"
  | .b32dec _ => "B32DEC"
  | .cvstart _ _ => "CVSTART"
  | .cvpush _ => "CVPUSH"
  | .cvflush => "CVFLUSH"

/-- The encoding of `i` selects a row that bears the mnemonic of `i`. -/
def Statement (i : Instr) : Prop :=
  ∃ r ∈ tableRows, r.mnemonic = mnemonic i ∧ selectsRow (encode i) r = true

/-- A command whose data operand is the whole immediate selects the row with its opcode and the mask 0xF000. -/
theorem selects_dataRow (op : Opcode) (v : Imm) (name : String) :
    selectsRow (commandWord op v) ⟨name, commandWord op 0, 0xF000⟩ = true := by
  simp only [selectsRow, beq_iff_eq]
  apply BitVec.eq_of_getLsbD_eq
  intro j hj
  simp only [commandWord, BitVec.getLsbD_and, BitVec.getLsbD_append]
  by_cases h : j < 12
  · interval_cases j <;> simp
  · interval_cases j <;> first | omega | simp

theorem nop : Statement .nop := ⟨⟨"NOP", 0x0000, 0xFFFF⟩, by decide, rfl, by decide⟩
theorem clrerr : Statement .clrerr := ⟨⟨"CLRERR", 0x2000, 0xFFFF⟩, by decide, rfl, by decide⟩
theorem rdreg (r : Reg) : Statement (.rdreg r) := by
  refine ⟨⟨"RDREG", encode (.rdreg r), 0xFFFF⟩, ?_, rfl, ?_⟩ <;> cases r <;> decide
theorem ckinit (m : Mode) : Statement (.ckinit m) :=
  ⟨⟨"CKINIT", 0x4000, 0xFFFE⟩, by decide, rfl, by cases m <;> decide⟩
theorem cksym (v : Imm) : Statement (.cksym v) :=
  ⟨⟨"CKSYM", 0x5000, 0xF000⟩, by decide, rfl, selects_dataRow 0x5 v _⟩
theorem ckpfx (ch : Imm) : Statement (.ckpfx ch) :=
  ⟨⟨"CKPFX", 0x6000, 0xF000⟩, by decide, rfl, selects_dataRow 0x6 ch _⟩
theorem ckfin : Statement .ckfin := ⟨⟨"CKFIN", 0x7000, 0xFFFF⟩, by decide, rfl, by decide⟩
theorem ckres : Statement .ckres := ⟨⟨"CKRES", 0x8000, 0xFFFF⟩, by decide, rfl, by decide⟩
theorem ckdig (k : BitVec 3) : Statement (.ckdig k) :=
  ⟨⟨"CKDIG", 0x9000, 0xFFF8⟩, by decide, rfl, by revert k; decide⟩
theorem b32enc (v : Imm) : Statement (.b32enc v) :=
  ⟨⟨"B32ENC", 0xA000, 0xF000⟩, by decide, rfl, selects_dataRow 0xA v _⟩
theorem b32dec (ch : Imm) : Statement (.b32dec ch) :=
  ⟨⟨"B32DEC", 0xB000, 0xF000⟩, by decide, rfl, selects_dataRow 0xB ch _⟩
theorem cvstart (d : Dir) (st : Strictness) : Statement (.cvstart d st) :=
  ⟨⟨"CVSTART", 0xC000, 0xFFFC⟩, by decide, rfl, by cases d <;> cases st <;> decide⟩
theorem cvpush (v : Imm) : Statement (.cvpush v) :=
  ⟨⟨"CVPUSH", 0xD000, 0xF000⟩, by decide, rfl, selects_dataRow 0xD v _⟩
theorem cvflush : Statement .cvflush := ⟨⟨"CVFLUSH", 0xE000, 0xFFFF⟩, by decide, rfl, by decide⟩

end Sys2Proof.Laws.EncodingIsTableRow
end

