-- ==== Sys2Proof/Laws/Run.lean ====
section
/-! SUPPORT. Running a program word by word: commands neither read nor write the host's queue, so a run is its words executed one after the other. -/

namespace Sys2Proof.Machine

variable {s t u : State} {i : Instr} {w : Word}

/-! ### Commands and the host's queue -/

/-- A piece of a command's work that neither reads nor writes the host's queue. -/
def IgnoresInput (work : State → Outcome) : Prop :=
  ∀ s t, work s = .next t → t.input = s.input ∧ ∀ es, work (s.takeEvent es) = .next (t.takeEvent es)

/-- A response over an update that ignores the queue. -/
theorem IgnoresInput.respond {data : State → Word40} {cnt : State → BitVec 2} {f : State → State}
    (hd : ∀ s es, data (s.takeEvent es) = data s) (hc : ∀ s es, cnt (s.takeEvent es) = cnt s)
    (hi : ∀ s, (f s).input = s.input) (hf : ∀ s es, f (s.takeEvent es) = (f s).takeEvent es) :
    IgnoresInput fun s => Machine.respond (data s) (cnt s) (f s) := by
  intro s t h
  cases h
  exact ⟨hi s, fun es => by simp only [hd, hc, hf]; rfl⟩

theorem IgnoresInput.raise (k : Cause) : IgnoresInput (Machine.raise k) := by
  intro s t h
  cases h
  refine ⟨State.latch_input, fun es => ?_⟩
  by_cases h : s.ecause = 0
  · rw [Machine.raise, State.latch_of_ready h, State.latch_of_ready (by exact h)]; rfl
  · rw [Machine.raise, State.latch_of_halted h, State.latch_of_halted (by exact h)]; rfl

theorem IgnoresInput.ite {p : State → Prop} [DecidablePred p] {f g : State → Outcome}
    (hp : ∀ s es, p (s.takeEvent es) ↔ p s) (hf : IgnoresInput f) (hg : IgnoresInput g) :
    IgnoresInput fun s => if p s then f s else g s := by
  intro s t h
  by_cases hs : p s
  · simp only [hs, if_true] at h
    exact ⟨(hf s t h).1, fun es => by simpa only [hp, hs, if_true] using (hf s t h).2 es⟩
  · simp only [hs, if_false] at h
    exact ⟨(hg s t h).1, fun es => by simpa only [hp, hs, if_false] using (hg s t h).2 es⟩

theorem IgnoresInput.whenReady {work : State → Outcome} (hw : IgnoresInput work) :
    IgnoresInput (Machine.whenReady work) :=
  IgnoresInput.ite (fun _ _ => Iff.rfl) hw fun s t h => by cases h; exact ⟨rfl, fun _ => rfl⟩

theorem exec_ignoresInput (i : Instr) : IgnoresInput (exec i) := by
  cases i with
  | nop => exact .respond (fun _ _ => rfl) (fun _ _ => rfl) (fun _ => rfl) (fun _ _ => rfl)
  | rdreg r => exact .respond (fun _ _ => by cases r <;> rfl) (fun _ _ => rfl) (fun _ => rfl) (fun _ _ => rfl)
  | clrerr => exact .respond (fun _ _ => rfl) (fun _ _ => rfl) (fun _ => rfl) (fun _ _ => rfl)
  | ckinit m => exact .whenReady (.respond (fun _ _ => rfl) (fun _ _ => rfl) (fun _ => rfl) (fun _ _ => rfl))
  | cksym v =>
    exact .whenReady (.ite (fun _ _ => Iff.rfl)
      (.respond (fun _ _ => rfl) (fun _ _ => rfl) (fun _ => rfl) (fun _ _ => rfl)) (.raise _))
  | ckpfx ch => exact .whenReady (.respond (fun _ _ => rfl) (fun _ _ => rfl) (fun _ => rfl) (fun _ _ => rfl))
  | ckfin =>
    refine .whenReady fun s t h => ?_
    cases hm : s.mode <;> simp only [hm] at h <;> cases h <;>
      exact ⟨rfl, fun es => by simp only [State.takeEvent_mode, hm]; rfl⟩
  | ckres => exact .whenReady (.respond (fun _ _ => rfl) (fun _ _ => rfl) (fun _ => rfl) (fun _ _ => rfl))
  | ckdig k => exact .whenReady (.respond (fun _ _ => rfl) (fun _ _ => rfl) (fun _ => rfl) (fun _ _ => rfl))
  | b32enc v =>
    exact .whenReady (.ite (fun _ _ => Iff.rfl)
      (.respond (fun _ _ => rfl) (fun _ _ => rfl) (fun _ => rfl) (fun _ _ => rfl)) (.raise _))
  | b32dec ch =>
    refine .whenReady fun s t h => ?_
    cases hi : alphabetIndex? ch <;> simp only [hi] at h ⊢
    · exact IgnoresInput.raise _ s t h
    · exact IgnoresInput.respond (data := fun _ => _) (cnt := fun _ => 0) (f := id) (fun _ _ => rfl) (fun _ _ => rfl) (fun _ => rfl) (fun _ _ => rfl) s t h
  | cvstart d st => exact .whenReady (.respond (fun _ _ => rfl) (fun _ _ => rfl) (fun _ => rfl) (fun _ _ => rfl))
  | cvpush v =>
    exact .whenReady (.ite (fun _ _ => Iff.rfl)
      (.respond (fun _ _ => rfl) (fun _ _ => rfl) (fun _ => rfl) (fun _ _ => rfl)) (.raise _))
  | cvflush =>
    have loose : IgnoresInput fun s => finishFlush (if 0 < s.bits.toNat then [flushPad s] else []) s :=
      .respond (fun _ _ => rfl) (fun _ _ => rfl) (fun _ => rfl) (fun _ _ => rfl)
    have strict : IgnoresInput fun s =>
        if s.bits.toNat < fromWidth s.dir ∧ flushPad s = 0 then finishFlush [] s else raise .paddingRequired s :=
      .ite (fun _ _ => Iff.rfl) (.respond (fun _ _ => rfl) (fun _ _ => rfl) (fun _ => rfl) (fun _ _ => rfl)) (.raise _)
    refine .whenReady fun s t h => ?_
    cases hs : s.strictness <;> simp only [hs, State.takeEvent_strictness] at h ⊢
    · exact loose s t h
    · exact strict s t h

theorem execWord_ignoresInput (w : Word) : IgnoresInput (execWord w) := by
  unfold execWord
  split
  · exact exec_ignoresInput _
  · exact .whenReady (.raise _)

/-! ### Runs -/

@[simp] theorem runProgram_nil (s : State) : runProgram [] s = .next s := rfl

/-- A run executes its first word, then runs the rest. -/
theorem runProgram_cons {ws : List Word} (h : execWord w s = .next t) :
    runProgram (w :: ws) s = runProgram ws t := by
  obtain ⟨hi, he⟩ := execWord_ignoresInput w s t h
  have := he (ws.map PortEvent.cmd ++ s.input)
  have hp : t.presentAll ws = t.takeEvent (ws.map PortEvent.cmd ++ s.input) := by
    simp [State.presentAll, State.takeEvent, hi]
  simp only [runProgram, hp]
  exact congrArg (fun o : Outcome => match o with
    | .next t => runSteps ws.length t
    | .fault r => .fault r
    | .refused r => .refused r) this

/-- The empty run completes at once. -/
theorem Completes.nil (s : State) : Completes [] s [] s := ⟨rfl, by simp, rfl, rfl⟩

/-- A run whose first command decodes back and completes goes on with the rest. -/
theorem Completes.cons {cmds : List Instr} {r : Response} {rs : List Response}
    (hd : decode (encode i) = .legal i) (h : exec i s = .next u) (hr : u.responses = s.responses ++ [r])
    (hc : Completes cmds u rs t) : Completes (i :: cmds) s (r :: rs) t where
  run := by
    have : execWord (encode i) s = .next u := by rw [execWord, hd]; exact h
    exact (runProgram_cons this).trans hc.run
  responses := by rw [hc.responses, hr, List.append_assoc]; rfl
  one_each := by simp [hc.one_each]
  input := hc.input.trans (exec_ignoresInput i s u h).1

end Sys2Proof.Machine
end

