-- ==== Sys2Proof/Tests/Slice0.lean ====
section
/-! SUPPORT. Tests. Words are written out from the encodings of R40 to R43; expected results are the examples of the commands' rules and of spec/95_test_vectors.md, or hand calculation from the rules, as each comment says. Then, for every obligation with hypotheses, a state and operands that meet them. -/

namespace Sys2Proof.Tests

open Sys2Proof Sys2Proof.Machine

/-! ### Helpers -/

/-- A state with the given registers, nothing presented and no response given. -/
def regs (c : Word40) (acc : BitVec 13) (bits : BitVec 4) (ctrl : BitVec 3) (status : BitVec 4) : State :=
  ⟨c, acc, bits, ctrl, status, [], [], 0⟩

/-- The response to the word `w` executed next in `s`. -/
def answer (w : Nat) (s : State) : Option Response :=
  match step (s.withFetchWord 16 w) with
  | .next t => t.responses.getLast?
  | _ => none

/-- The values of the five registers. -/
structure Registers where
  c : Word40
  acc : BitVec 13
  bits : BitVec 4
  ctrl : BitVec 3
  status : BitVec 4
  deriving DecidableEq, Repr

/-- The five registers after the word `w` executed next in `s`. -/
def after (w : Nat) (s : State) : Option Registers :=
  match step (s.withFetchWord 16 w) with
  | .next t => some ⟨t.c, t.acc, t.bits, t.ctrl, t.status⟩
  | _ => none

/-! ### Ill-formed words: one per check of R43 and R45 -/

def illFormed : List Word :=
  [0x0001, 0x0FFF, 0x1005, 0x100F, 0x1010, 0x1FFF, 0x2001, 0x3000, 0x3FFF, 0x4002, 0x4801] ++
  [0x7001, 0x8001, 0x9008, 0x9107, 0xC004, 0xC803, 0xE001, 0xF000, 0xFFFF]

theorem test_illFormed_words_are_refused_by_the_table :
    (illFormed.all fun w => !wellFormedWord w) = true := by decide
theorem test_illFormed_words_decode_to_illegal :
    (illFormed.all fun w => decode w == .illegal) = true := by decide
theorem test_legal_bounds_are_wellFormed :
    ([0x0000, 0x1000, 0x1004, 0x2000, 0x4001, 0x5FFF, 0x6FFF, 0x7000, 0x8000, 0x9007, 0xAFFF, 0xBFFF,
      0xC003, 0xDFFF, 0xE000].all fun w => wellFormedWord w) = true := by decide

/-! ### Decoding: op and imm written bit by bit from R40 and R42 -/

theorem test_decode_system :
    decode 0b0000_000000000000 = .legal .nop ∧ decode 0b0001_000000000000 = .legal (.rdreg .c) ∧
    decode 0b0001_000000000001 = .legal (.rdreg .acc) ∧ decode 0b0001_000000000010 = .legal (.rdreg .bits) ∧
    decode 0b0001_000000000011 = .legal (.rdreg .ctrl) ∧ decode 0b0001_000000000100 = .legal (.rdreg .status) ∧
    decode 0b0010_000000000000 = .legal .clrerr := by decide
theorem test_decode_checksum :
    decode 0b0100_000000000000 = .legal (.ckinit .compute) ∧
    decode 0b0100_000000000001 = .legal (.ckinit .verify) ∧
    decode 0b0101_000000011111 = .legal (.cksym 31) ∧ decode 0b0110_000001100010 = .legal (.ckpfx 0x62) ∧
    decode 0b0111_000000000000 = .legal .ckfin ∧ decode 0b1000_000000000000 = .legal .ckres ∧
    decode 0b1001_000000000110 = .legal (.ckdig 6) := by decide
theorem test_decode_base32 :
    decode 0b1010_000000011110 = .legal (.b32enc 30) ∧ decode 0b1011_000001110000 = .legal (.b32dec 0x70) := by
  decide
theorem test_decode_bitconv :
    decode 0b1100_000000000000 = .legal (.cvstart .eightToFive .loose) ∧
    decode 0b1100_000000000001 = .legal (.cvstart .fiveToEight .loose) ∧
    decode 0b1100_000000000010 = .legal (.cvstart .eightToFive .strict) ∧
    decode 0b1100_000000000011 = .legal (.cvstart .fiveToEight .strict) ∧
    decode 0b1101_000011111111 = .legal (.cvpush 255) ∧ decode 0b1110_000000000000 = .legal .cvflush := by
  decide
theorem test_decodeTableWord_rejects_a_word_too_long_or_illegal :
    decodeTableWord 16 0xC003 = some (.cvstart .fiveToEight .strict) ∧ decodeTableWord 16 0x1005 = none ∧
    decodeTableWord 24 0x10000 = none := by decide

/-! ### Commands -/

/-- R56: executes while halted and does not report the latched cause. -/
theorem test_nop_while_halted : answer 0x0000 (regs 9 5 3 6 0x3) = some ⟨0, 0, 0⟩ := by decide
/-- R57: after `CVSTART 1, 1`, `RDREG 3` gives 6. -/
theorem test_rdreg_ctrl : answer 0x1003 (regs 1 0 0 0b110 0) = some ⟨0, 0, 6⟩ := by decide
/-- R57: after a `PaddingRequired` fault, `RDREG 4` gives 3 with cause 0. -/
theorem test_rdreg_status_while_halted : answer 0x1004 (regs 1 1 2 0b110 3) = some ⟨0, 0, 3⟩ := by decide
/-- R58: `ECAUSE` 1 with `VALID` set becomes STATUS 8; the data registers stay. -/
theorem test_clrerr_keeps_valid : after 0x2000 (regs 7 5 3 6 0b1001) = some ⟨7, 5, 3, 6, 8⟩ := by decide
/-- R61: `C` = 1, MODE = 1, VALID = 0; DIR and STRICT stay. -/
theorem test_ckinit_verify : after 0x4001 (regs 0xff 5 3 0b110 8) = some ⟨1, 5, 3, 0b111, 0⟩ := by decide
/-- R62's example with bit 35 set. -/
theorem test_cksym_folds_a_generator :
    answer 0x5005 (regs 0x0800000000 0 0 0 0) = some ⟨0, 0, 0x98f2bc8e64⟩ := by decide
/-- R62: `CKSYM 32` faults and leaves `C`. -/
theorem test_cksym_out_of_range : after 0x5020 (regs 0x21 0 0 0 0) = some ⟨0x21, 0, 0, 0, 1⟩ := by decide
/-- R63: `CKPFX 'b'` from 1, and from the state after `bitcoincas` the letter `h` (section 1 of spec/95_test_vectors.md). -/
theorem test_ckpfx_first_letter : answer 0x6062 (regs 1 0 0 0 0) = some ⟨0, 0, 0x22⟩ := by decide
theorem test_ckpfx_last_letter : answer 0x6068 (regs 0x7445c65529 0 0 0 0) = some ⟨0, 0, 0xac1f536da6⟩ := by decide
/-- Section 1.1 of spec/95_test_vectors.md: `CKFIN` after the payload of the P2PKH address. -/
theorem test_ckfin_compute :
    answer 0x7000 (regs 0x6bb77fbba9 0 0 0 0) = some ⟨0, 0, 0x2294869b5d⟩ ∧
    after 0x7000 (regs 0x6bb77fbba9 0 0 0 0) = some ⟨0x2294869b5c, 0, 0, 0, 0⟩ := by decide
/-- R64: the verify result 1 and 0, no fault. -/
theorem test_ckfin_verify :
    after 0x7000 (regs 1 0 0 1 0) = some ⟨1, 0, 0, 1, 8⟩ ∧ answer 0x7000 (regs 0x20 0 0 1 8) = some ⟨0, 0, 0⟩ := by
  decide
/-- R65: the residue is `C ^ 1`. -/
theorem test_ckres : answer 0x8000 (regs 0x2294869b5c 0 0 0 0) = some ⟨0, 0, 0x2294869b5d⟩ := by decide
/-- Section 1.1 of spec/95_test_vectors.md: digits 0 and 7 of that residue are 4 and 29. -/
theorem test_ckdig_first_and_last :
    answer 0x9000 (regs 0x2294869b5c 0 0 0 0) = some ⟨0, 0, 4⟩ ∧
    answer 0x9007 (regs 0x2294869b5c 0 0 0 0) = some ⟨0, 0, 29⟩ := by decide
/-- R75: `0` is `q` = 0x71, `17` is `3` = 0x33; 32 faults. -/
theorem test_b32enc :
    answer 0xA000 (regs 1 0 0 0 0) = some ⟨0, 0, 0x71⟩ ∧ answer 0xA011 (regs 1 0 0 0 0) = some ⟨0, 0, 0x33⟩ ∧
    answer 0xA020 (regs 1 0 0 0 0) = some ⟨1, 0, 0⟩ := by decide
/-- R76: `a` is 29; upper case, `b`, and a code with a high bit set are unknown. -/
theorem test_b32dec :
    answer 0xB061 (regs 1 0 0 0 0) = some ⟨0, 0, 29⟩ ∧ answer 0xB041 (regs 1 0 0 0 0) = some ⟨2, 0, 0⟩ ∧
    answer 0xB062 (regs 1 0 0 0 0) = some ⟨2, 0, 0⟩ ∧ answer 0xB171 (regs 1 0 0 0 0) = some ⟨2, 0, 0⟩ := by decide
/-- R83: `CVSTART 1, 1` sets CTRL bits 2:1, keeps MODE and empties the buffer. -/
theorem test_cvstart : after 0xC003 (regs 9 7 3 1 8) = some ⟨9, 0, 0, 7, 8⟩ := by decide
/-- R84's examples: DIR 0, 0xff then 0x00. -/
theorem test_cvpush_8to5 :
    answer 0xD0FF (regs 1 0 0 0 0) = some ⟨0, 1, 0x1f⟩ ∧ after 0xD0FF (regs 1 0 0 0 0) = some ⟨1, 7, 3, 0, 0⟩ ∧
    answer 0xD000 (regs 1 7 3 0 0) = some ⟨0, 2, 0x001c⟩ ∧ after 0xD000 (regs 1 7 3 0 0) = some ⟨1, 0, 1, 0, 0⟩ := by
  decide
/-- R84's examples: DIR 1, 31 then 28; 32 faults. -/
theorem test_cvpush_5to8 :
    after 0xD01F (regs 1 0 0 2 0) = some ⟨1, 31, 5, 2, 0⟩ ∧ answer 0xD01C (regs 1 31 5 2 0) = some ⟨0, 1, 0xff⟩ ∧
    after 0xD01C (regs 1 31 5 2 0) = some ⟨1, 0, 2, 2, 0⟩ ∧ answer 0xD020 (regs 1 31 5 2 0) = some ⟨1, 0, 0⟩ := by
  decide
/-- R85's examples. -/
theorem test_cvflush_loose :
    answer 0xE000 (regs 1 7 3 0 0) = some ⟨0, 1, 0x1c⟩ ∧ answer 0xE000 (regs 1 1 2 2 0) = some ⟨0, 1, 0x40⟩ ∧
    answer 0xE000 (regs 1 0 5 2 0) = some ⟨0, 1, 0⟩ ∧ after 0xE000 (regs 1 7 3 0 0) = some ⟨1, 0, 0, 0, 0⟩ := by
  decide
theorem test_cvflush_strict :
    answer 0xE000 (regs 1 0 2 6 0) = some ⟨0, 0, 0⟩ ∧ answer 0xE000 (regs 1 1 2 6 0) = some ⟨3, 0, 0⟩ ∧
    answer 0xE000 (regs 1 0 5 6 0) = some ⟨3, 0, 0⟩ ∧ after 0xE000 (regs 1 7 3 4 0) = some ⟨1, 7, 3, 4, 3⟩ := by
  decide
/-- R45, R113: an illegal word faults, and while halted is refused with the cause latched before. -/
theorem test_illegal_word :
    answer 0x3000 (regs 1 0 0 0 8) = some ⟨4, 0, 0⟩ ∧ after 0x3000 (regs 1 0 0 0 8) = some ⟨1, 0, 0, 0, 12⟩ ∧
    answer 0x3000 (regs 1 0 0 0 2) = some ⟨2, 0, 0⟩ ∧ after 0x3000 (regs 1 0 0 0 2) = some ⟨1, 0, 0, 0, 2⟩ := by
  decide
/-- R114: the halted test comes before the range check. -/
theorem test_halted_before_range : answer 0x5020 (regs 1 0 0 0 3) = some ⟨3, 0, 0⟩ := by decide
/-- R137's sentence on clean runs, read with `CLRERR` allowed, is false: this run faults and ends with nothing latched (log 10). -/
theorem test_clrerr_hides_a_fault :
    ((match runProgram [0x5020, 0x2000] State.reset with
      | .next t => some (t.ecause, t.responses.map Response.cause)
      | _ => none) = some (0, [1, 0])) := by decide
/-- R26's example: the bytes 0xff, 0x00 as 5-bit digits, and the leftover bit. -/
theorem test_bitstream_order :
    wholeDigits 5 (bitstream 8 [0xff, 0x00]) = [31, 28, 0] ∧ leftoverBits 5 (bitstream 8 [0xff, 0x00]) = [false] := by
  decide
/-- R27 on the residue of section 1.1 of spec/95_test_vectors.md. -/
theorem test_toDigits : toDigits 0x2294869b5d = [4, 10, 10, 8, 13, 6, 26, 29] := by decide

/-! ### Witnesses: states and operands that meet the obligations' hypotheses -/

/-- A ready state inside a run of each unit: MODE VERIFY, DIR 5-to-8, STRICT, three bits buffered. -/
def ready : State := regs 0x22 0b101 3 0b111 0
/-- The same with `OutOfRange` latched. -/
def halted : State := regs 0x22 0b101 3 0b111 1
/-- `ready` with one event presented. -/
def presents (e : PortEvent) : State := { ready with input := [e] }

/-- IllegalWordsAreListedAndFault: one word of each kind, ready and halted. -/
theorem test_witness_illegal :
    decode 0x3000 = .illegal ∧ decode 0xF000 = .illegal ∧ decode 0x0001 = .illegal ∧ decode 0x1005 = .illegal ∧
    decode 0x4002 = .illegal ∧ decode 0x9008 = .illegal ∧ decode 0xC004 = .illegal ∧
    ready.ecause = 0 ∧ halted.ecause ≠ 0 := by decide
/-- LegalWordsAreDisjointTableRows, DecodeInvertsEncodeBothWays: a legal word. -/
theorem test_witness_legal_word :
    wellFormedWord 0x9007 = true ∧ decode 0x9007 = .legal (.ckdig 7) ∧ encode (.ckdig 7) = 0x9007 := by decide
/-- StepRunsTheDecodedCommand, EveryCommandWordGetsOneResponse, ResetSetsEveryRegister, OnlyClrerrOrResetLeavesHalted: each event, a legal and an illegal word. -/
theorem test_witness_events :
    ready.input = [] ∧ (presents .rst).input = .rst :: [] ∧
    (presents (.cmdCutByRst 0x5001)).input = .cmdCutByRst 0x5001 :: [] ∧
    (presents (.cmd 0x5001)).input = .cmd 0x5001 :: [] ∧ decode 0x5001 = .legal (.cksym 1) ∧
    (presents (.cmd 0x5020)).input = .cmd 0x5020 :: [] ∧ decode 0x3000 = .illegal := by decide
/-- EveryStepKeepsTheInvariant, EveryCommandWordGetsOneResponse: a state of R17, and a step from it. -/
theorem test_witness_invariant : ready.Inv ∧ (presents (.cmd 0xD01F)).Inv :=
  ⟨⟨by decide, by decide, by decide, by decide⟩, ⟨by decide, by decide, by decide, by decide⟩⟩
theorem test_witness_invariant_step : ∃ t, step (presents (.cmd 0xD01F)) = .next t := ⟨_, rfl⟩
/-- EveryCommandWordGetsOneResponse: a response with a cause. -/
theorem test_witness_response_with_a_cause : answer 0x5020 ready = some ⟨1, 0, 0⟩ := by decide
/-- FaultLatchesTheFirstCauseOnly, OnlyClrerrOrResetLeavesHalted, HaltedBlockRefusesAndIsQuiescent: ready, halted, a command the gate refuses, a program without `CLRERR`. -/
theorem test_witness_halted :
    ready.ecause = 0 ∧ halted.ecause ≠ 0 ∧ Instr.ckres ≠ .nop ∧ Instr.ckres ≠ .clrerr ∧
    (∀ r, Instr.ckres ≠ .rdreg r) ∧ (0x2000 : Word) ∉ ([0x5001, 0x3000] : List Word) := by
  refine ⟨by decide, by decide, by decide, by decide, fun r => by simp, by decide⟩
/-- OnlyClrerrOrResetLeavesHalted: a step out of the halted condition, by `CLRERR` and by reset. -/
theorem test_witness_leaving_halted :
    (after 0x2000 halted = some ⟨0x22, 0b101, 3, 0b111, 0⟩) ∧
    ∃ t, step { halted with input := [.rst] } = .next t ∧ t.ecause = 0 := ⟨by decide, _, rfl, by decide⟩
/-- FaultsAriseExactlyAsTabled: both sides of each bound. -/
theorem test_witness_fault_bounds :
    answer 0x501F ready = some ⟨0, 0, 0x45f⟩ ∧ answer 0x5020 ready = some ⟨1, 0, 0⟩ ∧
    answer 0xA01F ready = some ⟨0, 0, 0x6c⟩ ∧ answer 0xA020 ready = some ⟨1, 0, 0⟩ ∧
    (answer 0xD01F ready).map Response.cause = some 0 ∧ answer 0xD020 ready = some ⟨1, 0, 0⟩ ∧
    (answer 0xD0FF (regs 1 0 0 0 0)).map Response.cause = some 0 ∧ answer 0xD100 (regs 1 0 0 0 0) = some ⟨1, 0, 0⟩ := by
  decide
theorem test_witness_fault_states :
    ready.bufferOk = true ∧ ready.strictness = .strict ∧ (regs 1 7 3 0 0).bufferOk = true ∧
    (regs 1 7 3 0 0).strictness = .loose ∧ ready.dir = .fiveToEight ∧ (regs 1 7 3 0 0).dir = .eightToFive := by decide
/-- CleanRunIffNothingLatchedAtEnd: a ready state and programs without `CLRERR`, one clean, one not. -/
theorem test_witness_clean :
    ready.ecause = 0 ∧ (0x2000 : Word) ∉ ([0x5001] : List Word) ∧ (0x2000 : Word) ∉ ([0x5020, 0x5001] : List Word) := by
  decide
/-- The checksum commands' statements: ready and halted, both modes, both sides of `v < 32`, the ends of `imm`. -/
theorem test_witness_checksum_commands :
    ready.ecause = 0 ∧ halted.ecause ≠ 0 ∧ ready.mode = .verify ∧ State.reset.mode = .compute ∧
    State.reset.ecause = 0 ∧ (31 : Imm).toNat < 32 ∧ 32 ≤ (32 : Imm).toNat ∧
    wordAt 0x5 0 = 0x5000 ∧ wordAt 0x5 4095 = 0x5FFF ∧ wordAt 0x4 1 = 0x4001 ∧ wordAt 0x4 2 = 0x4002 := by decide
/-- The statements' bounds on `imm` and on a bit's number: the largest of each, and the selectors on both sides of theirs. -/
theorem test_witness_bounds :
    4095 < 4096 ∧ 39 < 40 ∧ decode (wordAt 0x0 0) = .legal .nop ∧ decode (wordAt 0x0 1) = .illegal ∧
    decode (wordAt 0x9 7) = .legal (.ckdig 7) ∧ decode (wordAt 0x9 8) = .illegal ∧
    decode (wordAt 0xC 3) = .legal (.cvstart .fiveToEight .strict) ∧ decode (wordAt 0xC 4) = .illegal ∧
    decode (wordAt 0x1 4095) = .illegal := by decide
/-- OneChangedDigitIsAlwaysDetected: two different digits, and an address without prefix and payload that verifies. -/
theorem test_witness_verifying_payload :
    (1 : Symbol) ≠ 2 ∧ compute (checksumInput [] [28, 5, 14, 16, 6, 15, 30, 18]) = 0 := by decide
/-- B32decInvertsTheAlphabet, DecodingStopsAtTheFirstUnknownCharacter: a known and an unknown character code. -/
theorem test_witness_known_character :
    (alphabetCode 0).toNat = (0x71 : Imm).toNat ∧ State.reset.ecause = 0 := by decide
theorem test_witness_unknown_character : ∀ v : Symbol, (alphabetCode v).toNat ≠ (0x62 : Imm).toNat := by decide
theorem test_witness_unknown_operand : ∀ v : Symbol, (alphabetCode v).setWidth 12 ≠ (0x62 : Imm) := by decide
/-- B32CommandsAreInverse: a decode that latches nothing. -/
theorem test_witness_decode_completes : ∃ t, exec (.b32dec 0x6c) ready = .next t ∧ t.ecause = 0 :=
  ⟨_, rfl, by decide⟩
/-- CvpushEmitsTheTopBits: both directions, each bound of `v`, the last `BITS` of R17. -/
theorem test_witness_push :
    (regs 1 15 4 0 0).ecause = 0 ∧ (255 : Imm).toNat < 2 ^ fromWidth (regs 1 15 4 0 0).dir ∧
    2 ^ fromWidth (regs 1 15 4 0 0).dir ≤ (256 : Imm).toNat ∧
    (regs 1 15 4 0 0).bits.toNat < toWidth (regs 1 15 4 0 0).dir ∧
    (regs 1 15 4 0 0).acc.toNat < 2 ^ (regs 1 15 4 0 0).bits.toNat ∧
    (31 : Imm).toNat < 2 ^ fromWidth (regs 1 127 7 2 0).dir ∧ 2 ^ fromWidth (regs 1 127 7 2 0).dir ≤ (32 : Imm).toNat ∧
    (regs 1 127 7 2 0).bits.toNat < toWidth (regs 1 127 7 2 0).dir ∧
    (regs 1 127 7 2 0).acc.toNat < 2 ^ (regs 1 127 7 2 0).bits.toNat := by decide
/-- OutputsPerPushAsTabled: a state for every row, with the largest `ACC`. -/
theorem test_witness_push_table :
    (∀ b ∈ [0, 1, 2, 3, 4], (regs 1 (BitVec.ofNat 13 (2 ^ b - 1)) (BitVec.ofNat 4 b) 0 0).dir = .eightToFive ∧
      (regs 1 (BitVec.ofNat 13 (2 ^ b - 1)) (BitVec.ofNat 4 b) 0 0).bits.toNat = b ∧
      (regs 1 (BitVec.ofNat 13 (2 ^ b - 1)) (BitVec.ofNat 4 b) 0 0).acc.toNat < 2 ^ b) ∧
    ∀ b ∈ [0, 1, 2, 3, 4, 5, 6, 7], (regs 1 (BitVec.ofNat 13 (2 ^ b - 1)) (BitVec.ofNat 4 b) 2 0).dir = .fiveToEight ∧
      (regs 1 (BitVec.ofNat 13 (2 ^ b - 1)) (BitVec.ofNat 4 b) 2 0).bits.toNat = b ∧
      (regs 1 (BitVec.ofNat 13 (2 ^ b - 1)) (BitVec.ofNat 4 b) 2 0).acc.toNat < 2 ^ b := by decide
/-- CvflushAppliesThePaddingPolicy: loose with and without bits, strict that passes, strict that fails by the pad and by the count. -/
theorem test_witness_flush :
    (∀ s ∈ [regs 1 7 3 0 0, regs 1 0 0 0 0, regs 1 0 4 6 0, regs 1 1 2 6 0, regs 1 0 5 6 0],
      s.ecause = 0 ∧ s.bits.toNat < toWidth s.dir ∧ s.acc.toNat < 2 ^ s.bits.toNat) ∧
    (regs 1 7 3 0 0).strictness = .loose ∧ (regs 1 0 4 6 0).strictness = .strict ∧
    (regs 1 0 4 6 0).bits.toNat < fromWidth (regs 1 0 4 6 0).dir ∧
    ¬ (regs 1 0 5 6 0).bits.toNat < fromWidth (regs 1 0 5 6 0).dir := by decide
/-- ConversionRunComputesConvert, ByteConversionRoundTrips, AddressRoundTrips: inputs in range, `convert` with and without a result (R86, R87). -/
theorem test_witness_convert_inputs :
    State.reset.ecause = 0 ∧ (∀ x ∈ ([31, 28] : List Imm), x.toNat < 2 ^ fromWidth .fiveToEight) ∧
    (∀ x ∈ ([255] : List Imm), x.toNat < 2 ^ fromWidth .eightToFive) := by
  refine ⟨by decide, ?_, ?_⟩ <;> simp [fromWidth]
theorem test_witness_convert_5to8 :
    convert .fiveToEight .strict [31, 28] = some [255] ∧ convert .fiveToEight .strict [31] = none := by decide
theorem test_witness_convert_8to5 :
    convert .eightToFive .loose [255] = some [31, 28] ∧ convert .eightToFive .strict [255] = none := by decide
/-- ConversionStopsAtAnInputOutOfRange: the first value out of range, in both directions. -/
theorem test_witness_input_out_of_range :
    2 ^ fromWidth .eightToFive ≤ (256 : Imm).toNat ∧ 2 ^ fromWidth .fiveToEight ≤ (32 : Imm).toNat ∧
    (∀ x ∈ ([0, 255] : List Imm), x.toNat < 2 ^ fromWidth .eightToFive) := by simp [fromWidth]
/-- StrictConversionRejectsBadLengths: digits of each bad length. -/
theorem test_witness_bad_lengths :
    ∀ n ∈ [1, 3, 6], (∀ x ∈ List.replicate n (31 : Imm), x.toNat < 32) ∧
      (List.replicate n (31 : Imm)).length % 8 ∈ [1, 3, 6] := by simp
/-- OnlyTheNamedCommandsWriteEachRegister: a command that changes each register. -/
theorem test_witness_writers :
    after 0x5001 ready = some ⟨0x441, 0b101, 3, 0b111, 0⟩ ∧ after 0xD001 ready = some ⟨0x22, 0, 0, 0b111, 0⟩ ∧
    after 0x4000 ready = some ⟨1, 0b101, 3, 0b110, 0⟩ := by decide
theorem test_witness_writers_of_fields :
    after 0xC000 ready = some ⟨0x22, 0, 0, 0b001, 0⟩ ∧ after 0x7000 (regs 1 0 0 1 0) = some ⟨1, 0, 0, 1, 8⟩ ∧
    after 0x5020 ready = some ⟨0x22, 0b101, 3, 0b111, 1⟩ := by
  decide
/-- ModeAndDirectionAreSticky: a program with neither command. -/
theorem test_witness_sticky :
    (∀ w ∈ ([0x5001, 0xD001] : List Word), ∀ m, decode w ≠ .legal (.ckinit m)) ∧
    (∀ w ∈ ([0x5001, 0xD001] : List Word), ∀ d st, decode w ≠ .legal (.cvstart d st)) := by
  constructor
  · intro w hw m; fin_cases hw <;> cases m <;> decide
  · intro w hw d st; fin_cases hw <;> cases d <;> cases st <;> decide
/-- ReadingCommandsHaveNoSideEffects: a reading command and `CKFIN` in VERIFY mode, neither faulting. -/
theorem test_witness_reading :
    (∃ t, exec .ckres ready = .next t ∧ t.ecause = ready.ecause) ∧
    ∃ t, exec .ckfin ready = .next t ∧ t.ecause = ready.ecause ∧ ready.mode = .verify :=
  ⟨⟨_, rfl, by decide⟩, ⟨_, rfl, by decide, by decide⟩⟩
/-- UnitsDoNotDisturbEachOther: a checksum command and a converter command that do not fault. -/
theorem test_witness_units :
    ready.ecause = 0 ∧ (∃ m v k, Instr.cksym 1 ∈ [.ckinit m, .cksym v, .ckpfx v, .ckfin, .ckres, .ckdig k, .b32enc v, .b32dec v]) ∧
    (∃ d st v, Instr.cvpush 1 ∈ [.cvstart d st, .cvpush v, .cvflush]) ∧
    (∃ t, exec (.cksym 1) ready = .next t ∧ t.ecause = 0) ∧ ∃ t, exec (.cvpush 1) ready = .next t ∧ t.ecause = 0 :=
  ⟨by decide, ⟨.compute, 1, 0, by simp⟩, ⟨.eightToFive, .loose, 1, by simp⟩, ⟨_, rfl, by decide⟩, ⟨_, rfl, by decide⟩⟩

end Sys2Proof.Tests
end

section
/-! Encoding: which words `decode` answers `ILLEGAL` (R43 to R45), and what executing one does (R112 to R114). -/

namespace Sys2Proof

/-! ### What each operand check of `decode` accepts -/

variable {imm : Imm} {i j : Instr} {w : Word}

@[simp] theorem noOperand_eq_illegal_iff : noOperand imm i = .illegal ↔ imm.toNat ≠ 0 := by
  unfold noOperand
  split <;> simp_all [← BitVec.toNat_inj]

@[simp] theorem noOperand_eq_legal_iff : noOperand imm i = .legal j ↔ imm.toNat = 0 ∧ i = j := by
  unfold noOperand
  split <;> simp_all [← BitVec.toNat_inj]

@[simp] theorem decodeRdreg_eq_illegal_iff : decodeRdreg imm = .illegal ↔ 5 ≤ imm.toNat := by
  rw [← Reg.ofNumber?_eq_none]
  unfold decodeRdreg
  split <;> simp_all

@[simp] theorem decodeRdreg_eq_legal_iff :
    decodeRdreg imm = .legal i ↔ ∃ r, Reg.ofNumber? imm.toNat = some r ∧ .rdreg r = i := by
  unfold decodeRdreg
  split <;> simp_all

@[simp] theorem decodeCkinit_eq_illegal_iff : decodeCkinit imm = .illegal ↔ 2 ≤ imm.toNat := by
  simp [decodeCkinit, Nat.succ_le_iff]

@[simp] theorem decodeCkinit_eq_legal_iff :
    decodeCkinit imm = .legal i ↔ imm.toNat ≤ 1 ∧ .ckinit (.ofBit (imm.getLsbD 0)) = i := by
  unfold decodeCkinit
  split <;> simp_all

@[simp] theorem decodeCkdig_eq_illegal_iff : decodeCkdig imm = .illegal ↔ 8 ≤ imm.toNat := by
  simp [decodeCkdig, Nat.succ_le_iff]

@[simp] theorem decodeCkdig_eq_legal_iff :
    decodeCkdig imm = .legal i ↔ imm.toNat ≤ 7 ∧ .ckdig (imm.extractLsb' 0 3) = i := by
  unfold decodeCkdig
  split <;> simp_all

@[simp] theorem decodeCvstart_eq_illegal_iff : decodeCvstart imm = .illegal ↔ 4 ≤ imm.toNat := by
  simp [decodeCvstart, Nat.succ_le_iff]

@[simp] theorem decodeCvstart_eq_legal_iff :
    decodeCvstart imm = .legal i ↔
      imm.toNat ≤ 3 ∧ .cvstart (.ofBit (imm.getLsbD 0)) (.ofBit (imm.getLsbD 1)) = i := by
  unfold decodeCvstart
  split <;> simp_all

/-! ### The illegal words, and the one word of `NOP` (R45) -/

/-- The fields of a word that selects no row of R42's table (R45). -/
def IllegalFields (op imm : Nat) : Prop :=
  op = 0x3 ∨ op = 0xF ∨ (op ∈ [0x0, 0x2, 0x7, 0x8, 0xE] ∧ imm ≠ 0)
    ∨ (op = 0x1 ∧ 5 ≤ imm) ∨ (op = 0x4 ∧ 2 ≤ imm) ∨ (op = 0x9 ∧ 8 ≤ imm) ∨ (op = 0xC ∧ 4 ≤ imm)

theorem decode_eq_illegal_iff :
    decode w = .illegal ↔ IllegalFields (opField w).toNat (immField w).toNat := by
  have hop : (opField w).toNat < 16 := (opField w).isLt
  unfold decode IllegalFields
  generalize (opField w).toNat = op at hop ⊢
  interval_cases op <;> simp

theorem decode_eq_nop_iff_fields :
    decode w = .legal .nop ↔ (opField w).toNat = 0 ∧ (immField w).toNat = 0 := by
  have hop : (opField w).toNat < 16 := (opField w).isLt
  unfold decode
  generalize (opField w).toNat = op at hop ⊢
  interval_cases op <;> simp

theorem decode_eq_nop_iff : decode w = .legal .nop ↔ w = 0x0000 := by
  rw [decode_eq_nop_iff_fields, opField_toNat, immField_toNat, ← BitVec.toNat_inj]
  change _ ↔ w.toNat = 0
  omega

/-! ### Executing an illegal word (R45, R55, R112 to R114) -/

namespace Machine

variable {s : State}

/-- A fault of a ready block leaves what R112 says. -/
theorem raise_faults (k : Cause) (h : s.ecause = 0) :
    ∃ t, raise k s = .next t ∧ Faulted k.code s t :=
  ⟨_, rfl, { ecause := by simp [h], valid := by simp, c := by simp, acc := by simp, bits := by simp
             ctrl := by simp, input := by simp, responses := by simp }⟩

theorem execWord_of_illegal (hw : decode w = .illegal) : execWord w s = execIllegal s := by
  rw [execWord, hw]

theorem execIllegal_of_ready (h : s.ecause = 0) : execIllegal s = raise .illegalCommand s :=
  whenReady_of_ready h

theorem execIllegal_of_halted (h : s.ecause ≠ 0) : execIllegal s = .next (s.answered s.ecause 0 0) :=
  whenReady_of_halted h

end Machine

end Sys2Proof

namespace Sys2Proof.Machine

/-- Settles O3: `decode` is checked opcode by opcode, and an illegal word passes the halted gate as the fault `IllegalCommand` or is refused there. -/
theorem illegalWordsAreListedAndFault : Obligations.IllegalWordsAreListedAndFault := by
  refine ⟨fun w => ?illegal, fun w => decode_eq_nop_iff, fun w s hw => ⟨fun ready => ?ready, fun halted => ?halted⟩⟩
  case illegal =>
    rw [← opField_toNat, ← immField_toNat]
    exact decode_eq_illegal_iff
  case ready =>
    rw [execWord_of_illegal hw, execIllegal_of_ready ready]
    exact raise_faults .illegalCommand ready
  case halted => rw [execWord_of_illegal hw, execIllegal_of_halted halted]

end Sys2Proof.Machine
end

section
/-! System commands: the words of `NOP`, `RDREG` and `CLRERR` (R43, R44), and what each of the three, which no halted gate stops, answers in every state (R56 to R58, R113). -/

namespace Sys2Proof

/-! ### `decode` on the opcodes of the system commands -/

variable {imm : Imm} {n : Nat} {i : Instr}

theorem decode_commandWord_nop : decode (commandWord 0x0 imm) = noOperand imm .nop := by
  simp [decode]

theorem decode_commandWord_rdreg : decode (commandWord 0x1 imm) = decodeRdreg imm := by
  simp [decode]

theorem decode_commandWord_clrerr : decode (commandWord 0x2 imm) = noOperand imm .clrerr := by
  simp [decode]

theorem toNat_immOfNat (hn : n < 4096) : (BitVec.ofNat 12 n).toNat = n :=
  Nat.mod_eq_of_lt hn

/-- The check of a command with no operand, on an immediate given by its number (R43). -/
theorem noOperand_immOfNat (hn : n < 4096) :
    noOperand (BitVec.ofNat 12 n) i = if n = 0 then .legal i else .illegal := by
  split
  case isTrue h => exact noOperand_eq_legal_iff.2 ⟨by rw [toNat_immOfNat hn, h], rfl⟩
  case isFalse h => exact noOperand_eq_illegal_iff.2 (by rwa [toNat_immOfNat hn])

namespace Machine

variable {s : State} {r : Reg}

/-! ### CTRL and STATUS as the numbers of their fields (R13, R14) -/

theorem ctrl_toNat_eq_fields (s : State) :
    s.ctrl.toNat = 4 * s.strictness.bit.toNat + 2 * s.dir.bit.toNat + s.mode.bit.toNat := by
  simp only [State.strictness, State.dir, State.mode, Strictness.bit_ofBit, Dir.bit_ofBit, Mode.bit_ofBit]
  generalize s.ctrl = x
  revert x; decide

theorem status_toNat_eq_fields (s : State) : s.status.toNat = 8 * s.valid.toNat + s.ecause.toNat := by
  simp only [State.valid, State.ecause]
  generalize s.status = x
  revert x; decide

/-! ### What the system commands answer -/

theorem exec_nop : exec .nop s = .next (s.answered 0 0 0) := respond_eq

theorem exec_rdreg : exec (.rdreg r) s = .next (s.answered 0 0 (readReg r s)) := respond_eq

theorem exec_clrerr : exec .clrerr s = .next ((s.setEcause 0).answered 0 0 0) := respond_eq

end Machine

end Sys2Proof

namespace Sys2Proof.Machine

/-- Settles O17: an operand check on the word, and a bare response from `exec`. -/
theorem nopRespondsAndChangesNothing : Obligations.NopRespondsAndChangesNothing := by
  refine ⟨fun imm himm => ?_, fun s => exec_nop⟩
  rw [wordAt_eq_commandWord himm]
  exact decode_commandWord_nop.trans (noOperand_immOfNat himm)

/-- Settles O18: the response carries `readReg`, and CTRL and STATUS are the numbers of their fields. -/
theorem rdregReturnsTheNumberedRegister : Obligations.RdregReturnsTheNumberedRegister := by
  refine ⟨⟨rfl, rfl, rfl, rfl, rfl⟩, fun imm himm h5 => ?reserved, fun s => ⟨exec_rdreg, ?acc, ?bits, ?ctrl, ?status⟩⟩
  case reserved =>
    rw [wordAt_eq_commandWord himm]
    exact decode_commandWord_rdreg.trans (decodeRdreg_eq_illegal_iff.2 (by rwa [toNat_immOfNat himm]))
  case acc => rw [BitVec.ofNat_toNat]; exact exec_rdreg
  case bits => rw [BitVec.ofNat_toNat]; exact exec_rdreg
  case ctrl => rw [← ctrl_toNat_eq_fields, BitVec.ofNat_toNat]; exact exec_rdreg
  case status => rw [← status_toNat_eq_fields, BitVec.ofNat_toNat]; exact exec_rdreg

/-- Settles O19: the next state is `setEcause 0` with a response, whose other fields the frame lemmas give. -/
theorem clrerrClearsTheLatchOnly : Obligations.ClrerrClearsTheLatchOnly := by
  refine ⟨fun imm himm => ?word, fun s => ⟨_, exec_clrerr, ?frame⟩⟩
  case word =>
    rw [wordAt_eq_commandWord himm]
    exact decode_commandWord_clrerr.trans (noOperand_immOfNat himm)
  case frame => simp

end Sys2Proof.Machine
end

section
/-! Checksum engine: `fold` bit by bit (R60), the digits of a residue (R27), the words of the six commands (R43, R44), and what each command answers a ready block (R61 to R66). -/

namespace Sys2Proof

/-! ### `decode` on the opcodes of the checksum commands -/

variable {imm : Imm} {n : Nat}

theorem decode_commandWord_ckinit : decode (commandWord 0x4 imm) = decodeCkinit imm := by
  simp [decode]

theorem decode_commandWord_cksym : decode (commandWord 0x5 imm) = .legal (.cksym imm) := by
  simp [decode]

theorem decode_commandWord_ckpfx : decode (commandWord 0x6 imm) = .legal (.ckpfx imm) := by
  simp [decode]

theorem decode_commandWord_ckfin : decode (commandWord 0x7 imm) = noOperand imm .ckfin := by
  simp [decode]

theorem decode_commandWord_ckres : decode (commandWord 0x8 imm) = noOperand imm .ckres := by
  simp [decode]

theorem decode_commandWord_ckdig : decode (commandWord 0x9 imm) = decodeCkdig imm := by
  simp [decode]

/-- The check of `CKINIT`, on an immediate given by its number (R44). -/
theorem decodeCkinit_immOfNat (hn : n < 4096) :
    decodeCkinit (BitVec.ofNat 12 n) =
      if n = 0 then .legal (.ckinit .compute) else if n = 1 then .legal (.ckinit .verify) else .illegal := by
  split
  case isTrue h0 => subst h0; rfl
  case isFalse h0 =>
    split
    case isTrue h1 => subst h1; rfl
    case isFalse h1 => exact decodeCkinit_eq_illegal_iff.2 (by rw [toNat_immOfNat hn]; omega)

theorem extractLsb'_immOfNat : (BitVec.ofNat 12 n).extractLsb' 0 3 = BitVec.ofNat 3 n := by
  apply BitVec.eq_of_toNat_eq
  simp only [BitVec.extractLsb'_toNat, BitVec.toNat_ofNat, Nat.shiftRight_zero]
  omega

/-- The check of `CKDIG`, on an immediate given by its number (R44). -/
theorem decodeCkdig_immOfNat (hn : n < 4096) :
    decodeCkdig (BitVec.ofNat 12 n) = if n < 8 then .legal (.ckdig (BitVec.ofNat 3 n)) else .illegal := by
  split
  case isTrue h =>
    exact decodeCkdig_eq_legal_iff.2 ⟨by rw [toNat_immOfNat hn]; omega, by rw [extractLsb'_immOfNat]⟩
  case isFalse h => exact decodeCkdig_eq_illegal_iff.2 (by rw [toNat_immOfNat hn]; omega)

namespace Machine

variable {s : State} {m : Mode} {v ch : Imm} {k : BitVec 3}

/-! ### `fold` bit by bit (R60) -/

theorem foldGenerator_getLsbD (top : Symbol) (c1 : Word40) (i j : Nat) :
    (foldGenerator top c1 i).getLsbD j =
      (c1.getLsbD j ^^ (top.getLsbD i && (generators.getD i 0).getLsbD j)) := by
  unfold foldGenerator
  split <;> simp_all

theorem lowMask35_getLsbD (i : Nat) : (0x07ffffffff : Word40).getLsbD i = decide (i < 35) := by
  have hmask : (0x07ffffffff : Word40) = (BitVec.allOnes 35).setWidth 40 := by decide
  rw [hmask, BitVec.getLsbD_setWidth, BitVec.getLsbD_allOnes, ← Bool.decide_and]
  exact decide_eq_decide.2 (by omega)

/-- The state shifted up by one symbol, with the new symbol below it, before any generator is applied. -/
theorem shiftIn_getLsbD (c : Word40) (v : Symbol) {j : Nat} (hj : j < 40) :
    (((c &&& 0x07ffffffff) <<< 5) ^^^ v.setWidth 40).getLsbD j =
      if j < 5 then v.getLsbD j else c.getLsbD (j - 5) := by
  rw [BitVec.getLsbD_xor, BitVec.getLsbD_shiftLeft, BitVec.getLsbD_and, lowMask35_getLsbD, BitVec.getLsbD_setWidth]
  split
  case isTrue h => simp [h, hj]
  case isFalse h =>
    have hv : v.getLsbD j = false := BitVec.getLsbD_of_ge v j (by omega)
    have hlow : j - 5 < 35 := by omega
    simp [h, hj, hv, hlow]

theorem top_getLsbD (c : Word40) {i : Nat} (hi : i < 5) :
    (c.extractLsb' 35 5).getLsbD i = c.getLsbD (35 + i) := by
  simp [hi]

/-! ### Symbols and digits (R27, R28) -/

theorem lowSymbol_eq_ofNat (v : Imm) : lowSymbol v = BitVec.ofNat 5 v.toNat := by
  apply BitVec.eq_of_toNat_eq
  simp [lowSymbol, BitVec.extractLsb'_toNat]

theorem lowSymbol_eq_ofNat_mod (v : Imm) : lowSymbol v = BitVec.ofNat 5 (v.toNat % 32) := by
  apply BitVec.eq_of_toNat_eq
  simp [lowSymbol, BitVec.extractLsb'_toNat]

theorem fits_five_iff : fits 5 v = true ↔ v.toNat < 32 := decide_eq_true_iff

theorem toNat_immOfNat_mod (ch : Imm) : (BitVec.ofNat 12 (ch.toNat % 32)).toNat = ch.toNat % 32 :=
  toNat_immOfNat (by omega)

theorem lowSymbol_immOfNat_mod (ch : Imm) : lowSymbol (BitVec.ofNat 12 (ch.toNat % 32)) = lowSymbol ch := by
  rw [lowSymbol_eq_ofNat, toNat_immOfNat_mod, lowSymbol_eq_ofNat_mod]

theorem setWidth_lowFive (r : Word40) : (r.extractLsb' 0 5).setWidth 40 = r &&& 0x1f := by
  apply BitVec.eq_of_toNat_eq
  have hlow : r.toNat &&& 31 = r.toNat % 32 := Nat.and_two_pow_sub_one_eq_mod r.toNat 5
  simp only [BitVec.toNat_setWidth, BitVec.extractLsb'_toNat, BitVec.toNat_and, Nat.shiftRight_zero]
  change _ = r.toNat &&& 31
  omega

/-- The digits taken from the low end are the successive 5-bit slices of the word. -/
theorem lowDigits_eq_slices (n : Nat) (r : Word40) :
    lowDigits n r = (List.range n).map fun i => r.extractLsb' (5 * i) 5 := by
  induction n generalizing r with
  | zero => rfl
  | succ n ih =>
    have hshift (i : Nat) : (r >>> 5).extractLsb' (5 * i) 5 = r.extractLsb' (5 * (i + 1)) 5 := by
      apply BitVec.eq_of_getLsbD_eq
      intro j hj
      simp [hj, Nat.mul_add, Nat.add_comm, Nat.add_left_comm]
    simp [lowDigits, ih, hshift, List.range_succ_eq_map, Function.comp_def]

theorem toDigits_eq_slices (r : Word40) :
    toDigits r = (List.range 8).map fun k => r.extractLsb' (35 - 5 * k) 5 := by
  rw [toDigits, lowDigits_eq_slices]
  rfl

theorem residueIsZero_eq_decide (c : Word40) : residueIsZero c = decide (c = 1) := by
  simp [residueIsZero, BitVec.xor_eq_zero_iff, Bool.beq_eq_decide_eq]

/-! ### The halted gate and the checksum commands (R55, R113) -/

/-- R113: all commands but the three system commands are refused while the block is halted. -/
theorem exec_of_halted {i : Instr} (h : s.ecause ≠ 0) (hnop : i ≠ .nop) (hclrerr : i ≠ .clrerr)
    (hrdreg : ∀ r, i ≠ .rdreg r) : exec i s = .next (s.answered s.ecause 0 0) := by
  cases i
  case nop => exact absurd rfl hnop
  case clrerr => exact absurd rfl hclrerr
  case rdreg r => exact absurd rfl (hrdreg r)
  all_goals exact if_neg h

theorem exec_ckinit_of_ready (h : s.ecause = 0) :
    exec (.ckinit m) s = .next ((((s.setMode m).setValid false).setC 1).answered 0 0 1) :=
  if_pos h

theorem exec_cksym_of_ready_fits (h : s.ecause = 0) (hv : v.toNat < 32) :
    exec (.cksym v) s =
      .next ((s.setC (fold s.c (lowSymbol v))).answered 0 0 (fold s.c (lowSymbol v))) :=
  (if_pos h).trans (if_pos (fits_five_iff.2 hv))

theorem exec_cksym_of_ready_tooLarge (h : s.ecause = 0) (hv : 32 ≤ v.toNat) :
    exec (.cksym v) s = raise .outOfRange s :=
  (if_pos h).trans (if_neg (fits_five_iff.not.2 (by omega)))

theorem exec_ckpfx_of_ready (h : s.ecause = 0) :
    exec (.ckpfx ch) s =
      .next ((s.setC (fold s.c (lowSymbol ch))).answered 0 0 (fold s.c (lowSymbol ch))) :=
  if_pos h

/-- In every state, halted ones too: the low five bits always pass the range check of `CKSYM`. -/
theorem exec_ckpfx_eq_exec_cksym (ch : Imm) (s : State) :
    exec (.ckpfx ch) s = exec (.cksym (BitVec.ofNat 12 (ch.toNat % 32))) s := by
  by_cases h : s.ecause = 0
  · have hlt : (BitVec.ofNat 12 (ch.toNat % 32)).toNat < 32 := by rw [toNat_immOfNat_mod]; omega
    rw [exec_ckpfx_of_ready h, exec_cksym_of_ready_fits h hlt, lowSymbol_immOfNat_mod]
  · rw [exec_of_halted (i := .ckpfx ch) h nofun nofun nofun, exec_of_halted (i := .cksym _) h nofun nofun nofun]

theorem exec_ckfin_of_ready_compute (h : s.ecause = 0) (hm : s.mode = .compute) :
    exec .ckfin s = finishCompute s := by
  refine (if_pos h).trans ?_
  simp only [hm]

theorem exec_ckfin_of_ready_verify (h : s.ecause = 0) (hm : s.mode = .verify) :
    exec .ckfin s =
      .next ((s.setValid (decide (s.c = 1))).answered 0 0 (if s.c = 1 then 1 else 0)) := by
  refine (if_pos h).trans ?_
  simp only [hm, finishVerify, residueIsZero_eq_decide, respond_eq, decide_eq_true_eq]

theorem exec_ckres_of_ready (h : s.ecause = 0) :
    exec .ckres s = .next (s.answered 0 0 (residue s.c)) :=
  if_pos h

theorem exec_ckdig_of_ready (h : s.ecause = 0) :
    exec (.ckdig k) s = .next (s.answered 0 0 ((residueDigit (residue s.c) k).setWidth 40)) :=
  if_pos h

end Machine

end Sys2Proof

namespace Sys2Proof.Machine

/-- Settles O20: bit `j` of the shifted state, and one exclusive or for each pass of the loop. -/
theorem foldBitByBit : Obligations.FoldBitByBit := by
  intro c v j hj
  simp only [fold, List.foldl_cons, List.foldl_nil, foldGenerator_getLsbD, shiftIn_getLsbD c v hj]
  simp (disch := decide) only [top_getLsbD]
  rfl

/-- Settles O23: the next state sets MODE, VALID and C in turn, and the frame lemmas give the other fields. -/
theorem ckinitStartsARun : Obligations.CkinitStartsARun := by
  refine ⟨fun imm himm => ?word, fun m s => ⟨fun halted => exec_of_halted halted nofun nofun nofun, fun ready => ⟨_, exec_ckinit_of_ready ready, ?frame⟩⟩⟩
  case word =>
    rw [wordAt_eq_commandWord himm]
    exact decode_commandWord_ckinit.trans (decodeCkinit_immOfNat himm)
  case frame => simp

/-- Settles O24: the halted gate, then the range check, which either folds the operand or raises `OutOfRange`. -/
theorem cksymFoldsOneSymbol : Obligations.CksymFoldsOneSymbol := by
  refine ⟨fun imm himm => ?word, fun v s =>
    ⟨fun halted => exec_of_halted halted nofun nofun nofun, fun ready hv => ?symbol, fun ready hv => ?tooLarge⟩⟩
  case word =>
    rw [wordAt_eq_commandWord himm]
    exact decode_commandWord_cksym
  case symbol =>
    rw [← lowSymbol_eq_ofNat]
    exact exec_cksym_of_ready_fits ready hv
  case tooLarge =>
    rw [exec_cksym_of_ready_tooLarge ready hv]
    exact raise_faults .outOfRange ready

/-- Settles O25: no range check stands between the halted gate and the fold of the low five bits. -/
theorem ckpfxFoldsTheLowFiveBits : Obligations.CkpfxFoldsTheLowFiveBits := by
  refine ⟨fun imm himm => ?word, fun ch s =>
    ⟨fun halted => exec_of_halted halted nofun nofun nofun, fun ready => ?symbol, exec_ckpfx_eq_exec_cksym ch s⟩⟩
  case word =>
    rw [wordAt_eq_commandWord himm]
    exact decode_commandWord_ckpfx
  case symbol =>
    rw [← lowSymbol_eq_ofNat_mod]
    exact exec_ckpfx_of_ready ready

/-- Settles O26: the two modes of `CKFIN`; in VERIFY mode the residue is 0 exactly when C is 1. -/
theorem ckfinPadsOrVerifies : Obligations.CkfinPadsOrVerifies := by
  refine ⟨fun imm himm => ?word, fun s => ⟨fun halted => exec_of_halted halted nofun nofun nofun, exec_ckfin_of_ready_compute,
    fun ready verify => ⟨_, exec_ckfin_of_ready_verify ready verify, ?frame⟩⟩⟩
  case word =>
    rw [wordAt_eq_commandWord himm]
    exact decode_commandWord_ckfin.trans (noOperand_immOfNat himm)
  case frame => simp [ready]

/-- Settles O27: the residue of the ready state is the response, and nothing is written. -/
theorem ckresReturnsTheResidue : Obligations.CkresReturnsTheResidue := by
  refine ⟨fun imm himm => ?word, fun s => ⟨fun halted => exec_of_halted halted nofun nofun nofun, exec_ckres_of_ready⟩⟩
  rw [wordAt_eq_commandWord himm]
  exact decode_commandWord_ckres.trans (noOperand_immOfNat himm)

/-- Settles O28: a digit of the residue is its low five bits after a shift, and the reversed low digits are slices of the word. -/
theorem ckdigReadsMostSignificantFirst : Obligations.CkdigReadsMostSignificantFirst := by
  refine ⟨fun imm himm => ?word, fun k s => ⟨fun halted => exec_of_halted halted nofun nofun nofun, fun ready => ?digit⟩, toDigits_eq_slices⟩
  case word =>
    rw [wordAt_eq_commandWord himm]
    exact decode_commandWord_ckdig.trans (decodeCkdig_immOfNat himm)
  case digit =>
    rw [← setWidth_lowFive]
    exact exec_ckdig_of_ready ready

end Sys2Proof.Machine
end

section
/-! Bit-width converter: the loop of `CVPUSH` in arithmetic (R26, R84), the padding of `CVFLUSH` (R85), the words of the three commands (R43, R44), and what each command answers a ready block (R83 to R85). -/

namespace Sys2Proof

/-! ### `decode` on the opcodes of the converter commands -/

variable {imm : Imm} {n : Nat}

theorem decode_commandWord_cvstart : decode (commandWord 0xC imm) = decodeCvstart imm := by
  simp [decode]

theorem decode_commandWord_cvpush : decode (commandWord 0xD imm) = .legal (.cvpush imm) := by
  simp [decode]

theorem decode_commandWord_cvflush : decode (commandWord 0xE imm) = noOperand imm .cvflush := by
  simp [decode]

/-- The check of `CVSTART`, on an immediate given by its number (R44). -/
theorem decodeCvstart_immOfNat (hn : n < 4096) :
    decodeCvstart (BitVec.ofNat 12 n) =
      if n = 0 then .legal (.cvstart .eightToFive .loose)
      else if n = 1 then .legal (.cvstart .fiveToEight .loose)
      else if n = 2 then .legal (.cvstart .eightToFive .strict)
      else if n = 3 then .legal (.cvstart .fiveToEight .strict) else .illegal := by
  by_cases h : n < 4
  · interval_cases n <;> rfl
  · rw [if_neg (by omega), if_neg (by omega), if_neg (by omega), if_neg (by omega)]
    exact decodeCvstart_eq_illegal_iff.2 (by rw [toNat_immOfNat hn]; omega)

namespace Machine

variable {s : State} {d : Dir} {st : Strictness} {v : Imm} {tw : Nat}

/-! ### The digits of a number written as a bit string (R26) -/

/-- The first bits of a number are those of its quotient. -/
theorem bitsOf_add (a b N : Nat) : bitsOf (a + b) N = bitsOf a (N / 2 ^ b) ++ bitsOf b N := by
  induction a with
  | zero => simp [bitsOf]
  | succ a ih =>
    rw [Nat.succ_add, bitsOf_succ, bitsOf_succ, ih, Nat.testBit_div_two_pow, List.cons_append]

/-- A slice of a number's bits is a quotient's low bits. -/
theorem take_drop_bitsOf (a b c N : Nat) :
    ((bitsOf (a + (b + c)) N).drop a).take b = bitsOf b (N / 2 ^ c) := by
  rw [bitsOf_add, List.drop_left' (bitsOf_length ..), bitsOf_add, List.take_left' (bitsOf_length ..)]

theorem wholeDigits_bitsOf (tw n N : Nat) :
    wholeDigits tw (bitsOf n N) =
      (List.range (n / tw)).map fun j => N / 2 ^ (n - (j + 1) * tw) % 2 ^ tw := by
  rw [wholeDigits, bitsOf_length]
  refine List.map_congr_left fun j hj => ?_
  have hle : (j + 1) * tw ≤ n :=
    (Nat.mul_le_mul_right tw (List.mem_range.1 hj)).trans (Nat.div_mul_le_self n tw)
  have hsplit : n = j * tw + (tw + (n - (j + 1) * tw)) := by rw [Nat.succ_mul] at hle ⊢; omega
  conv_lhs => rw [hsplit]
  rw [take_drop_bitsOf, valueOf_bitsOf]

theorem leftoverBits_bitsOf (tw n N : Nat) : leftoverBits tw (bitsOf n N) = bitsOf (n % tw) N := by
  have hsplit : bitsOf n N = bitsOf (n / tw * tw) (N / 2 ^ (n % tw)) ++ bitsOf (n % tw) N := by
    rw [← bitsOf_add, Nat.div_add_mod']
  rw [leftoverBits, bitsOf_length, hsplit, List.drop_left' (bitsOf_length ..)]

/-- The loop of `CVPUSH` on a buffer of `n` bits that holds the number `N` (R84). -/
theorem emitLoop_eq_arith (h0 : 0 < tw) {n N : Nat} (hN : N < 2 ^ n) :
    emitLoop tw n N n =
      ⟨(List.range (n / tw)).map fun j => N / 2 ^ (n - (j + 1) * tw) % 2 ^ tw,
        N % 2 ^ (n % tw), n % tw⟩ := by
  have hloop := emitLoop_eq h0 n (bitsOf n N) (bitsOf_length n N).le
  rwa [valueOf_bitsOf, Nat.mod_eq_of_lt hN, bitsOf_length, wholeDigits_bitsOf, leftoverBits_bitsOf,
    valueOf_bitsOf, bitsOf_length] at hloop

/-! ### The widths, the buffer and the lanes (R17, R41, R82) -/

theorem toWidth_pos (d : Dir) : 0 < toWidth d := by cases d <;> decide

theorem toWidth_le_eight (d : Dir) : toWidth d ≤ 8 := by cases d <;> decide

/-- One push never emits more than the two lanes of a response hold. -/
theorem outputs_per_push_le_two {bits : Nat} (hb : bits < toWidth d) :
    (bits + fromWidth d) / toWidth d ≤ 2 := by
  cases d <;> simp only [toWidth, fromWidth] at hb ⊢ <;> omega

theorem bufferOk_iff :
    s.bufferOk = true ↔ s.bits.toNat < toWidth s.dir ∧ s.acc.toNat < 2 ^ s.bits.toNat := by
  simp [State.bufferOk]

theorem fits_iff {n : Nat} : fits n v = true ↔ v.toNat < 2 ^ n := decide_eq_true_iff

theorem lanes_singleton (a : Nat) : lanes [a] = BitVec.ofNat 40 a := by simp [lanes]

theorem lanes_pair {a : Nat} (ha : a < 256) (b : Nat) : lanes [a, b] = BitVec.ofNat 40 (a + 256 * b) := by
  have hor : 2 ^ 8 * b + a = 2 ^ 8 * b ||| a := Nat.two_pow_add_eq_or_of_lt ha b
  simp only [lanes, List.getD_cons_zero, List.getD_cons_succ, Nat.shiftLeft_eq]
  rw [Nat.mul_comm b, Nat.or_comm, ← hor, Nat.add_comm]
  rfl

/-- Up to two outputs, each of at most a lane's width, as one number. -/
theorem lanes_map_range {k : Nat} (hk : k ≤ 2) {out : Nat → Nat} (hout : out 0 < 256) :
    lanes ((List.range k).map out) =
      BitVec.ofNat 40 (if k = 0 then 0 else if k = 1 then out 0 else out 0 + 256 * out 1) := by
  interval_cases k
  · simp [lanes]
  · exact lanes_singleton (out 0)
  · exact lanes_pair hout (out 1)

/-! ### What a push writes and returns (R84) -/

/-- The buffer after the push, before anything is emitted, still fits its count of bits. -/
theorem pushed_lt {a b f x : Nat} (ha : a < 2 ^ b) (hx : x < 2 ^ f) : a * 2 ^ f + x < 2 ^ (b + f) := by
  rw [Nat.pow_add, Nat.mul_comm a]
  exact Nat.mul_add_lt_mul_of_lt_of_lt ha hx

theorem pushEmission_eq_emitLoop {acc bits x : Nat} (hx : x < 2 ^ fromWidth d) :
    pushEmission d acc bits x =
      emitLoop (toWidth d) (bits + fromWidth d) (acc * 2 ^ fromWidth d + x) (bits + fromWidth d) := by
  rw [pushEmission, ← Nat.shiftLeft_add_eq_or_of_lt hx, Nat.shiftLeft_eq]

theorem pushEffect_eq_arith (hb : s.bits.toNat < toWidth s.dir) (hacc : s.acc.toNat < 2 ^ s.bits.toNat)
    (hv : v.toNat < 2 ^ fromWidth s.dir) :
    let n := s.bits.toNat + fromWidth s.dir
    let N := s.acc.toNat * 2 ^ fromWidth s.dir + v.toNat
    let out := fun j : Nat => N / 2 ^ (n - (j + 1) * toWidth s.dir) % 2 ^ toWidth s.dir
    pushEffect s v =
      { acc := BitVec.ofNat 13 (N % 2 ^ (n % toWidth s.dir))
        bits := BitVec.ofNat 4 (n % toWidth s.dir)
        cnt := BitVec.ofNat 2 (n / toWidth s.dir)
        data := BitVec.ofNat 40
          (if n / toWidth s.dir = 0 then 0
           else if n / toWidth s.dir = 1 then out 0 else out 0 + 256 * out 1) } := by
  intro n N out
  have hout : out 0 < 256 :=
    (Nat.mod_lt _ (Nat.two_pow_pos _)).trans_le (Nat.pow_le_pow_right two_pos (toWidth_le_eight s.dir))
  have hloop : pushEmission s.dir s.acc.toNat s.bits.toNat v.toNat =
      ⟨(List.range (n / toWidth s.dir)).map out, N % 2 ^ (n % toWidth s.dir), n % toWidth s.dir⟩ := by
    rw [pushEmission_eq_emitLoop hv, emitLoop_eq_arith (toWidth_pos s.dir) (pushed_lt hacc hv)]
  have hlanes : n / toWidth s.dir ≤ 2 := outputs_per_push_le_two hb
  rw [pushEffect, if_pos (bufferOk_iff.2 ⟨hb, hacc⟩), ← lanes_map_range hlanes hout]
  simp only [pushByRule, hloop, List.length_map, List.length_range]

/-! ### The padding of a flush (R85) -/

theorem flushPad_eq_arith (hb : s.bits.toNat < toWidth s.dir) (hacc : s.acc.toNat < 2 ^ s.bits.toNat) :
    flushPad s = s.acc.toNat * 2 ^ (toWidth s.dir - s.bits.toNat) % 2 ^ toWidth s.dir := by
  rw [flushPad, if_pos (bufferOk_iff.2 ⟨hb, hacc⟩), padByRule, mask, Nat.and_two_pow_sub_one_eq_mod,
    Nat.shiftLeft_eq]

/-! ### What the converter commands answer a ready block -/

theorem exec_cvstart_of_ready (h : s.ecause = 0) :
    exec (.cvstart d st) s =
      .next ((((s.setConversion d st).setAcc 0).setBits 0).answered 0 0 0) :=
  if_pos h

theorem exec_cvpush_of_ready_fits (h : s.ecause = 0) (hv : v.toNat < 2 ^ fromWidth s.dir) :
    exec (.cvpush v) s =
      .next (((s.setAcc (pushEffect s v).acc).setBits (pushEffect s v).bits).answered 0
        (pushEffect s v).cnt (pushEffect s v).data) :=
  (if_pos h).trans (if_pos (fits_iff.2 hv))

theorem exec_cvpush_of_ready_tooLarge (h : s.ecause = 0) (hv : 2 ^ fromWidth s.dir ≤ v.toNat) :
    exec (.cvpush v) s = raise .outOfRange s :=
  (if_pos h).trans (if_neg (fits_iff.not.2 hv.not_gt))

theorem finishFlush_eq {outs : List Nat} :
    finishFlush outs s =
      .next (((s.setAcc 0).setBits 0).answered 0 (BitVec.ofNat 2 outs.length) (lanes outs)) := rfl

theorem exec_cvflush_of_ready_loose (h : s.ecause = 0) (hst : s.strictness = .loose) :
    exec .cvflush s = finishFlush (if 0 < s.bits.toNat then [flushPad s] else []) s := by
  refine (if_pos h).trans ?_
  simp only [hst]

theorem exec_cvflush_of_ready_strict (h : s.ecause = 0) (hst : s.strictness = .strict) :
    exec .cvflush s =
      if s.bits.toNat < fromWidth s.dir ∧ flushPad s = 0 then finishFlush [] s
      else raise .paddingRequired s := by
  refine (if_pos h).trans ?_
  simp only [hst]

end Machine

end Sys2Proof

namespace Sys2Proof.Machine

/-- Settles O40: the halted gate, the range check, and the loop of `CVPUSH` read as the division of the buffer's bit string into digits. -/
theorem cvpushEmitsTheTopBits : Obligations.CvpushEmitsTheTopBits := by
  refine ⟨fun imm himm => ?word, ⟨rfl, rfl, rfl, rfl⟩, fun v s =>
    ⟨fun halted => exec_of_halted halted nofun nofun nofun, fun ready hv => ?tooLarge, fun ready hv hb hacc => ?push⟩⟩
  case word =>
    rw [wordAt_eq_commandWord himm]
    exact decode_commandWord_cvpush
  case tooLarge =>
    rw [exec_cvpush_of_ready_tooLarge ready hv]
    exact raise_faults .outOfRange ready
  case push =>
    rw [exec_cvpush_of_ready_fits ready hv, pushEffect_eq_arith hb hacc hv]
    rfl

/-- Settles O39: the next state sets DIR with STRICT, ACC and BITS in turn, and the frame lemmas give the other fields. -/
theorem cvstartStartsAConversion : Obligations.CvstartStartsAConversion := by
  refine ⟨fun imm himm => ?word, fun d st s => ⟨fun halted => exec_of_halted halted nofun nofun nofun,
    fun ready => ⟨_, exec_cvstart_of_ready ready, ?frame⟩⟩⟩
  case word =>
    rw [wordAt_eq_commandWord himm]
    exact decode_commandWord_cvstart.trans (decodeCvstart_immOfNat himm)
  case frame => simp

/-- Settles O42: in loose mode the flush emits the padding of a buffer that is not empty; in strict mode it tests that padding. -/
theorem cvflushAppliesThePaddingPolicy : Obligations.CvflushAppliesThePaddingPolicy := by
  refine ⟨fun imm himm => ?word, fun s => ⟨fun halted => exec_of_halted halted nofun nofun nofun, fun ready hb hacc => ?flush⟩⟩
  case word =>
    rw [wordAt_eq_commandWord himm]
    exact decode_commandWord_cvflush.trans (noOperand_immOfNat himm)
  case flush =>
    rw [← flushPad_eq_arith hb hacc]
    refine ⟨fun loose => ?loose, fun strict hpad => ?clean, fun strict hpad => ?dirty⟩
    case loose =>
      rw [exec_cvflush_of_ready_loose ready loose]
      split
      case isTrue h => rw [finishFlush_eq, lanes_singleton]; rfl
      case isFalse h => rfl
    case clean =>
      rw [exec_cvflush_of_ready_strict ready strict, if_pos hpad]
      rfl
    case dirty =>
      rw [exec_cvflush_of_ready_strict ready strict, if_neg hpad]
      exact raise_faults .paddingRequired ready

end Sys2Proof.Machine
end

section
/-! Faults and the halted condition: what a fault latches (R112), which commands of a ready block fault (R110), and what a halted block does until `CLRERR` or reset (R113, R115). -/

namespace Sys2Proof

variable {w : Word}

/-! ### The one word of `CLRERR` (R44) -/

theorem decode_eq_clrerr_iff_fields :
    decode w = .legal .clrerr ↔ (opField w).toNat = 2 ∧ (immField w).toNat = 0 := by
  have hop : (opField w).toNat < 16 := (opField w).isLt
  unfold decode
  generalize (opField w).toNat = op at hop ⊢
  interval_cases op <;> simp

theorem decode_eq_clrerr_iff : decode w = .legal .clrerr ↔ w = 0x2000 := by
  rw [decode_eq_clrerr_iff_fields, opField_toNat, immField_toNat, ← BitVec.toNat_inj]
  change _ ↔ w.toNat = 8192
  omega

namespace Machine

variable {s t u : State} {i : Instr} {v ch : Imm} {rest : List PortEvent}

/-! ### The same registers -/

theorem SameRegisters.refl (s : State) : SameRegisters s s := ⟨rfl, rfl, rfl, rfl, rfl⟩

theorem SameRegisters.trans (h : SameRegisters s t) (h' : SameRegisters t u) : SameRegisters s u :=
  ⟨h'.c.trans h.c, h'.acc.trans h.acc, h'.bits.trans h.bits, h'.ctrl.trans h.ctrl, h'.status.trans h.status⟩

theorem SameRegisters.answered (s : State) (cause : BitVec 3) (cnt : BitVec 2) (data : Word40) :
    SameRegisters s (s.answered cause cnt data) := ⟨rfl, rfl, rfl, rfl, rfl⟩

/-! ### The character codes and the base32 commands of a ready block (R75, R76) -/

theorem setWidth_eq_imm_iff {code : CharCode} : code.setWidth 12 = ch ↔ code.toNat = ch.toNat := by
  have hcode : code.toNat < 2 ^ 12 := code.isLt.trans (by decide)
  rw [← BitVec.toNat_inj, BitVec.toNat_setWidth, Nat.mod_eq_of_lt hcode]

theorem alphabetIndex?_eq_none_iff :
    alphabetIndex? ch = none ↔ ¬ ∃ code ∈ alphabet, code.toNat = ch.toNat := by
  simp [alphabetIndex?, List.findIdx?_eq_none_iff, setWidth_eq_imm_iff]

theorem exec_b32enc_of_ready_fits (h : s.ecause = 0) (hv : v.toNat < 32) :
    exec (.b32enc v) s = .next (s.answered 0 0 ((alphabetCode (lowSymbol v)).setWidth 40)) :=
  (if_pos h).trans (if_pos (fits_five_iff.2 hv))

theorem exec_b32enc_of_ready_tooLarge (h : s.ecause = 0) (hv : 32 ≤ v.toNat) :
    exec (.b32enc v) s = raise .outOfRange s :=
  (if_pos h).trans (if_neg (fits_five_iff.not.2 (by omega)))

theorem exec_b32dec_of_ready_known (h : s.ecause = 0) {x : Symbol} (hx : alphabetIndex? ch = some x) :
    exec (.b32dec ch) s = .next (s.answered 0 0 (x.setWidth 40)) := by
  refine (if_pos h).trans ?_
  simp only [hx, respond_eq]

theorem exec_b32dec_of_ready_unknown (h : s.ecause = 0) (hx : alphabetIndex? ch = none) :
    exec (.b32dec ch) s = raise .unknownSymbol s := by
  refine (if_pos h).trans ?_
  simp only [hx]

/-! ### The cause each command of a ready block latches (R110, R112) -/

@[simp] theorem latchedAfter_next : latchedAfter (.next t) = some t.ecause := rfl

theorem latchedAfter_raise_of_ready (k : Cause) (h : s.ecause = 0) :
    latchedAfter (raise k s) = some k.code := by
  simp [raise, h]

/-- The first row of R110's table: a range check that guards all a command does. -/
theorem latchedAfter_of_rangeCheck {o : Outcome} {bound : Nat} (h : s.ecause = 0)
    (hfits : v.toNat < bound → latchedAfter o = some 0)
    (htooLarge : bound ≤ v.toNat → o = raise .outOfRange s) :
    latchedAfter o = some (if bound ≤ v.toNat then 1 else 0) := by
  split
  case isTrue hv => rw [htooLarge hv, latchedAfter_raise_of_ready _ h]; rfl
  case isFalse hv => exact hfits (not_le.1 hv)

theorem latchedAfter_cksym_of_ready (h : s.ecause = 0) :
    latchedAfter (exec (.cksym v) s) = some (if 32 ≤ v.toNat then 1 else 0) :=
  latchedAfter_of_rangeCheck h (fun hv => by simp [exec_cksym_of_ready_fits h hv, h])
    (exec_cksym_of_ready_tooLarge h)

theorem latchedAfter_b32enc_of_ready (h : s.ecause = 0) :
    latchedAfter (exec (.b32enc v) s) = some (if 32 ≤ v.toNat then 1 else 0) :=
  latchedAfter_of_rangeCheck h (fun hv => by simp [exec_b32enc_of_ready_fits h hv, h])
    (exec_b32enc_of_ready_tooLarge h)

theorem two_pow_fromWidth (d : Dir) : 2 ^ fromWidth d = if d = .eightToFive then 256 else 32 := by
  cases d <;> rfl

theorem latchedAfter_cvpush_of_ready (h : s.ecause = 0) :
    latchedAfter (exec (.cvpush v) s) =
      some (if (if s.dir = .eightToFive then 256 else 32) ≤ v.toNat then 1 else 0) := by
  rw [← two_pow_fromWidth]
  exact latchedAfter_of_rangeCheck h (fun hv => by simp [exec_cvpush_of_ready_fits h hv, h])
    (exec_cvpush_of_ready_tooLarge h)

theorem latchedAfter_b32dec_of_ready (h : s.ecause = 0) :
    latchedAfter (exec (.b32dec ch) s) =
      some (if ∃ code ∈ alphabet, code.toNat = ch.toNat then 0 else 2) := by
  cases hx : alphabetIndex? ch with
  | none =>
    rw [exec_b32dec_of_ready_unknown h hx, latchedAfter_raise_of_ready _ h,
      if_neg (alphabetIndex?_eq_none_iff.1 hx)]
    rfl
  | some x =>
    have hknown : ∃ code ∈ alphabet, code.toNat = ch.toNat :=
      not_not.1 (alphabetIndex?_eq_none_iff.not.1 (by simp [hx]))
    rw [exec_b32dec_of_ready_known h hx, if_pos hknown, latchedAfter_next, State.answered_ecause, h]

theorem latchedAfter_finishFlush {outs : List Nat} : latchedAfter (finishFlush outs s) = some s.ecause := rfl

theorem latchedAfter_cvflush_of_ready (h : s.ecause = 0) :
    latchedAfter (exec .cvflush s) =
      some (if s.strictness = .strict ∧ ¬ (s.bits.toNat < fromWidth s.dir ∧ flushPad s = 0) then 3 else 0) := by
  cases hst : s.strictness with
  | loose => simp [exec_cvflush_of_ready_loose h hst, latchedAfter_finishFlush, h]
  | strict =>
    rw [exec_cvflush_of_ready_strict h hst]
    by_cases hpad : s.bits.toNat < fromWidth s.dir ∧ flushPad s = 0
    · rw [if_pos hpad, latchedAfter_finishFlush, h, if_neg fun hfault => hfault.2 hpad]
    · rw [if_neg hpad, latchedAfter_raise_of_ready _ h, if_pos ⟨rfl, hpad⟩]
      rfl

theorem latchedAfter_illegal_of_ready (h : s.ecause = 0) {w : Word} (hw : decode w = .illegal) :
    latchedAfter (execWord w s) = some 4 := by
  rw [execWord_of_illegal hw, execIllegal_of_ready h, latchedAfter_raise_of_ready _ h]
  rfl

theorem latchedAfter_ckfin_of_ready (h : s.ecause = 0) : latchedAfter (exec .ckfin s) = some 0 := by
  cases hm : s.mode with
  | compute => simp [exec_ckfin_of_ready_compute h hm, finishCompute, respond_eq, h]
  | verify => simp [exec_ckfin_of_ready_verify h hm, h]

/-! ### The halted condition (R113) -/

theorem execWord_of_legal {w : Word} (hw : decode w = .legal i) : execWord w s = exec i s := by
  rw [execWord, hw]

/-- A command of a halted block, run or refused, only adds a response, unless it is `CLRERR`. -/
theorem exec_of_halted_of_ne_clrerr (h : s.ecause ≠ 0) (hi : i ≠ .clrerr) :
    ∃ cause data, exec i s = .next (s.answered cause 0 data) := by
  cases i
  case clrerr => exact absurd rfl hi
  case nop => exact ⟨_, _, exec_nop⟩
  case rdreg r => exact ⟨_, _, exec_rdreg⟩
  all_goals exact ⟨_, _, exec_of_halted h nofun nofun nofun⟩

theorem execWord_of_halted_of_ne_clrerr (h : s.ecause ≠ 0) {w : Word} (hw : w ≠ 0x2000) :
    ∃ cause data, execWord w s = .next (s.answered cause 0 data) := by
  cases hd : decode w with
  | illegal => exact ⟨_, _, (execWord_of_illegal hd).trans (execIllegal_of_halted h)⟩
  | legal i =>
    rw [execWord_of_legal hd]
    exact exec_of_halted_of_ne_clrerr h fun hi => hw (decode_eq_clrerr_iff.1 (hi ▸ hd))

/-- R113: a halted block is quiescent, whatever words but `CLRERR` it is given. -/
theorem runProgram_of_halted (ws : List Word) (h : s.ecause ≠ 0) (hws : (0x2000 : Word) ∉ ws) :
    ∃ t, runProgram ws s = .next t ∧ SameRegisters s t := by
  induction ws generalizing s with
  | nil => exact ⟨s, runProgram_nil s, .refl s⟩
  | cons w ws ih =>
    obtain ⟨hw, hws⟩ := not_or.1 (mt List.mem_cons.2 hws)
    obtain ⟨cause, data, hexec⟩ := execWord_of_halted_of_ne_clrerr h (Ne.symm hw)
    obtain ⟨t, hrun, hsame⟩ := ih (s := s.answered cause 0 data) h hws
    exact ⟨t, (runProgram_cons hexec).trans hrun, (SameRegisters.answered ..).trans hsame⟩

/-! ### Leaving the halted condition (R115, R125) -/

theorem step_of_cmd {w : Word} (hin : s.input = .cmd w :: rest) : step s = execWord w (s.takeEvent rest) := by
  rw [step, hin]

theorem step_of_nil (hin : s.input = []) : step s = .next s := by
  rw [step, hin, idle]

theorem State.applyReset_ecause (s : State) : s.applyReset.ecause = 0 := rfl

theorem State.abandon_ecause (s : State) : s.abandon.ecause = 0 := by
  obtain ⟨rs, -, heq⟩ := s.abandon_eq
  rw [heq]
  rfl

theorem step_reset_ecause (hin : s.input = .rst :: rest ∨ ∃ w, s.input = .cmdCutByRst w :: rest) :
    ∃ t, step s = .next t ∧ t.ecause = 0 := by
  obtain hin | ⟨w, hin⟩ := hin
  · exact ⟨_, by rw [step, hin], State.applyReset_ecause _⟩
  · exact ⟨_, by rw [step, hin], State.abandon_ecause _⟩

/-- A step that neither takes `CLRERR` nor resets keeps a latched cause. -/
theorem step_leaves_halted (h : s.ecause ≠ 0) (hstep : step s = .next t) (ht : t.ecause = 0) :
    ∃ rest, s.input = .cmd 0x2000 :: rest ∨ s.input = .rst :: rest ∨ ∃ w, s.input = .cmdCutByRst w :: rest := by
  cases hin : s.input with
  | nil =>
    obtain rfl : s = t := by simpa [step_of_nil hin] using hstep
    exact absurd ht h
  | cons e rest =>
    refine ⟨rest, ?_⟩
    cases e with
    | rst => exact .inr (.inl rfl)
    | cmdCutByRst w => exact .inr (.inr ⟨w, rfl⟩)
    | cmd w =>
      by_cases hw : w = 0x2000
      · exact .inl (by rw [hw])
      · have htaken : (s.takeEvent rest).ecause ≠ 0 := h
        obtain ⟨cause, data, hexec⟩ := execWord_of_halted_of_ne_clrerr htaken hw
        obtain rfl : (s.takeEvent rest).answered cause 0 data = t := by
          simpa [step_of_cmd hin, hexec] using hstep
        exact absurd ht htaken

theorem raise_clrerr_sameRegisters (k : Cause) (h : s.ecause = 0) :
    ∃ t u, raise k s = .next t ∧ exec .clrerr t = .next u ∧ SameRegisters s u :=
  ⟨_, _, rfl, exec_clrerr,
    { c := by simp, acc := by simp, bits := by simp, ctrl := by simp
      status := status_eq_of_fields _ _ (by simp) (by simp [h]) }⟩

end Machine

end Sys2Proof

namespace Sys2Proof.Machine

/-- Settles O13: each command's work behind the halted gate raises its row's cause or completes with the latch untouched. -/
theorem faultsAriseExactlyAsTabled : Obligations.FaultsAriseExactlyAsTabled := by
  refine fun s ready => ⟨fun v => latchedAfter_cksym_of_ready ready, fun v => latchedAfter_b32enc_of_ready ready,
    fun v => latchedAfter_cvpush_of_ready ready, fun ch => latchedAfter_b32dec_of_ready ready, fun hbuffer => ?flush,
    fun w => latchedAfter_illegal_of_ready ready, ?nop, fun r => ?rdreg, ?clrerr, fun m => ?ckinit, fun ch => ?ckpfx,
    latchedAfter_ckfin_of_ready ready, ?ckres, fun k => ?ckdig, fun d st => ?cvstart⟩
  case flush =>
    obtain ⟨hb, hacc⟩ := bufferOk_iff.1 hbuffer
    rw [← flushPad_eq_arith hb hacc]
    exact latchedAfter_cvflush_of_ready ready
  case nop => simp [exec_nop, ready]
  case rdreg => simp [exec_rdreg, ready]
  case clrerr => simp [exec_clrerr]
  case ckinit => simp [exec_ckinit_of_ready ready, ready]
  case ckpfx => simp [exec_ckpfx_of_ready ready, ready]
  case ckres => simp [exec_ckres_of_ready ready, ready]
  case ckdig => simp [exec_ckdig_of_ready ready, ready]
  case cvstart => simp [exec_cvstart_of_ready ready, ready]

/-- Settles O14: the halted gate refuses, the three exempt commands run, and by induction on the program no word but `CLRERR` writes a register. -/
theorem haltedBlockRefusesAndIsQuiescent : Obligations.HaltedBlockRefusesAndIsQuiescent := by
  refine fun s halted => ⟨fun i => exec_of_halted halted, fun w hw => ?illegal, exec_nop, fun r => exec_rdreg,
    ⟨_, exec_clrerr, by simp, by simp⟩, fun ws => runProgram_of_halted ws halted⟩
  rw [execWord_of_illegal hw, execIllegal_of_halted halted]

/-- Settles O15: by cases on the event a step takes, only `CLRERR` and the two resets write the latch of a halted block. -/
theorem onlyClrerrOrResetLeavesHalted : Obligations.OnlyClrerrOrResetLeavesHalted := by
  refine ⟨fun s t => step_leaves_halted, fun s => ⟨_, exec_clrerr, ?frame⟩, fun s rest => step_reset_ecause,
    fun k s => raise_clrerr_sameRegisters k⟩
  simp

/-- Settles O12: `raise` is the latch and a response, and the frame lemmas of the latch give every field. -/
theorem faultLatchesTheFirstCauseOnly : Obligations.FaultLatchesTheFirstCauseOnly := by
  refine ⟨⟨rfl, rfl, rfl, rfl⟩, fun k s => ⟨_, rfl, ?frame⟩⟩
  simp

end Sys2Proof.Machine
end

section
/-! Decoding and encoding are inverse (R42 to R44, R47); the rows of the opcode table as decoded commands (R42). -/

namespace Sys2Proof

variable {op : Opcode} {imm : Imm} {i j : Instr} {w : Word} {k : Nat} {r r' : TableRow}

/-! ### From a decoded command back to its word -/

theorem word_eq_commandWord (hop : (opField w).toNat = op.toNat) (himm : immField w = imm) : commandWord op imm = w := by
  rw [← himm, ← BitVec.eq_of_toNat_eq hop, commandWord_opField_immField]

theorem encode_of_noOperand (henc : encode i = commandWord op 0) (hop : (opField w).toNat = op.toNat)
    (h : noOperand (immField w) i = .legal j) : encode j = w := by
  obtain ⟨himm, rfl⟩ := noOperand_eq_legal_iff.1 h
  rw [henc]
  exact word_eq_commandWord hop (BitVec.eq_of_toNat_eq himm)

theorem encode_of_decodeRdreg (hop : (opField w).toNat = 0x1) (h : decodeRdreg (immField w) = .legal i) :
    encode i = w := by
  obtain ⟨r, hr, rfl⟩ := decodeRdreg_eq_legal_iff.1 h
  refine word_eq_commandWord hop (BitVec.eq_of_toNat_eq ?_)
  rw [Reg.ofNumber?_eq_some hr]
  cases r <;> rfl

/-- An immediate below 2 is its one bit (R44). -/
theorem imm_eq_of_le_one (h : imm.toNat ≤ 1) : imm = (BitVec.ofBool (imm.getLsbD 0)).setWidth 12 := by
  obtain rfl | rfl : imm = 0 ∨ imm = 1 := by simp only [← BitVec.toNat_inj]; change _ = 0 ∨ _ = 1; omega
  all_goals rfl

/-- An immediate below 4 is its two bits (R44). -/
theorem imm_eq_of_le_three (h : imm.toNat ≤ 3) :
    imm = (BitVec.ofBool (imm.getLsbD 1) ++ BitVec.ofBool (imm.getLsbD 0)).setWidth 12 := by
  obtain rfl | rfl | rfl | rfl : imm = 0 ∨ imm = 1 ∨ imm = 2 ∨ imm = 3 := by
    simp only [← BitVec.toNat_inj]; change _ = 0 ∨ _ = 1 ∨ _ = 2 ∨ _ = 3; omega
  all_goals rfl

theorem setWidth_extractLsb'_of_le_seven (h : imm.toNat ≤ 7) : (imm.extractLsb' 0 3).setWidth 12 = imm := by
  apply BitVec.eq_of_toNat_eq
  simp only [BitVec.toNat_setWidth, BitVec.extractLsb'_toNat, Nat.shiftRight_zero]
  omega

theorem encode_of_decodeCkinit (hop : (opField w).toNat = 0x4) (h : decodeCkinit (immField w) = .legal i) :
    encode i = w := by
  obtain ⟨himm, rfl⟩ := decodeCkinit_eq_legal_iff.1 h
  refine word_eq_commandWord hop ?_
  rw [Machine.Mode.bit_ofBit]
  exact imm_eq_of_le_one himm

theorem encode_of_decodeCkdig (hop : (opField w).toNat = 0x9) (h : decodeCkdig (immField w) = .legal i) :
    encode i = w := by
  obtain ⟨himm, rfl⟩ := decodeCkdig_eq_legal_iff.1 h
  exact word_eq_commandWord hop (setWidth_extractLsb'_of_le_seven himm).symm

theorem encode_of_decodeCvstart (hop : (opField w).toNat = 0xC) (h : decodeCvstart (immField w) = .legal i) :
    encode i = w := by
  obtain ⟨himm, rfl⟩ := decodeCvstart_eq_legal_iff.1 h
  refine word_eq_commandWord hop ?_
  rw [cvstartImm, Machine.Strictness.bit_ofBit, Machine.Dir.bit_ofBit]
  exact imm_eq_of_le_three himm

/-- Every legal word is the encoding of the command it decodes to, branch by branch of R44's `decode`. -/
theorem encode_of_decode (h : decode w = .legal i) : encode i = w := by
  unfold decode at h
  split at h
  next hop => exact encode_of_noOperand (op := 0x0) rfl hop h
  next hop => exact encode_of_decodeRdreg hop h
  next hop => exact encode_of_noOperand (op := 0x2) rfl hop h
  next hop => exact encode_of_decodeCkinit hop h
  next hop => cases h; exact word_eq_commandWord hop rfl
  next hop => cases h; exact word_eq_commandWord hop rfl
  next hop => exact encode_of_noOperand (op := 0x7) rfl hop h
  next hop => exact encode_of_noOperand (op := 0x8) rfl hop h
  next hop => exact encode_of_decodeCkdig hop h
  next hop => cases h; exact word_eq_commandWord hop rfl
  next hop => cases h; exact word_eq_commandWord hop rfl
  next hop => exact encode_of_decodeCvstart hop h
  next hop => cases h; exact word_eq_commandWord hop rfl
  next hop => exact encode_of_noOperand (op := 0xE) rfl hop h
  next => cases h

/-! ### From a command to its word and back -/

theorem decode_commandWord_b32enc : decode (commandWord 0xA imm) = .legal (.b32enc imm) := by
  simp [decode]

theorem decode_commandWord_b32dec : decode (commandWord 0xB imm) = .legal (.b32dec imm) := by
  simp [decode]

/-- Every command decodes back from its encoding; the finite operands one by one. -/
@[simp] theorem decode_encode (i : Instr) : decode (encode i) = .legal i := by
  cases i with
  | nop => exact decode_commandWord_nop
  | rdreg r => cases r <;> rfl
  | clrerr => exact decode_commandWord_clrerr
  | ckinit m => cases m <;> rfl
  | cksym v => exact decode_commandWord_cksym
  | ckpfx ch => exact decode_commandWord_ckpfx
  | ckfin => exact decode_commandWord_ckfin
  | ckres => exact decode_commandWord_ckres
  | ckdig k => revert k; decide
  | b32enc v => exact decode_commandWord_b32enc
  | b32dec ch => exact decode_commandWord_b32dec
  | cvstart d st => cases d <;> cases st <;> rfl
  | cvpush v => exact decode_commandWord_cvpush
  | cvflush => exact decode_commandWord_cvflush

/-! ### The rows of the opcode table (R42) -/

theorem selectsRow_iff : selectsRow w r = true ↔ w &&& r.mask = r.pattern := beq_iff_eq

/-- A mask that leaves the low `k` bits free fixes the quotient by `2^k`. -/
theorem toNat_div_of_and_highMask {p : Word} (h : w &&& (BitVec.allOnes 16 <<< k) = p) :
    w.toNat / 2 ^ k = p.toNat / 2 ^ k := by
  have hshift : p >>> k = w >>> k := by
    rw [← h]
    apply BitVec.eq_of_getLsbD_eq
    intro n hn
    by_cases hk : k + n < 16
    · simp [hk, hn, -BitVec.reduceAllOnes]
    · simp [BitVec.getLsbD_of_ge w (k + n) (not_lt.1 hk)]
  simpa [BitVec.toNat_ushiftRight, Nat.shiftRight_eq_div_pow] using (congrArg BitVec.toNat hshift).symm

/-- The five shapes of a row: the whole word is fixed, the whole immediate is free, or the selector bits of `CKINIT`, `CVSTART`, `CKDIG` are. -/
theorem tableRows_shape (hr : r ∈ tableRows) :
    (r.mask = BitVec.allOnes 16 <<< 0 ∧ decode r.pattern ≠ .illegal) ∨
    (r.mask = BitVec.allOnes 16 <<< 12 ∧ r.pattern.toNat / 2 ^ 12 ∈ [0x5, 0x6, 0xA, 0xB, 0xD]) ∨
    (r.mask = BitVec.allOnes 16 <<< 1 ∧ r.pattern.toNat / 2 ^ 1 = 0x4000 / 2 ^ 1) ∨
    (r.mask = BitVec.allOnes 16 <<< 2 ∧ r.pattern.toNat / 2 ^ 2 = 0xC000 / 2 ^ 2) ∨
    (r.mask = BitVec.allOnes 16 <<< 3 ∧ r.pattern.toNat / 2 ^ 3 = 0x9000 / 2 ^ 3) := by
  revert r; decide

theorem decode_ne_illegal_of_not_illegalFields (h : ¬ IllegalFields (w.toNat / 4096) (w.toNat % 4096)) :
    decode w ≠ .illegal := by
  rwa [Ne, decode_eq_illegal_iff, opField_toNat, immField_toNat]

theorem decode_ne_illegal_of_selectsRow (hr : r ∈ tableRows) (h : selectsRow w r = true) : decode w ≠ .illegal := by
  rw [selectsRow_iff] at h
  obtain ⟨hm, hp⟩ | ⟨hm, hp⟩ | ⟨hm, hp⟩ | ⟨hm, hp⟩ | ⟨hm, hp⟩ := tableRows_shape hr <;>
    rw [hm] at h <;> have hdiv := toNat_div_of_and_highMask h
  case inl =>
    have hw : w = r.pattern := BitVec.eq_of_toNat_eq (by simpa using hdiv)
    rwa [hw]
  all_goals
    apply decode_ne_illegal_of_not_illegalFields
    simp only [← hdiv, List.mem_cons, List.not_mem_nil, or_false] at hp
    simp only [IllegalFields, List.mem_cons, List.not_mem_nil, or_false]
    omega

theorem decode_eq_legal_of_ne_illegal (h : decode w ≠ .illegal) : ∃ i, decode w = .legal i := by
  cases hd : decode w with
  | legal i => exact ⟨i, rfl⟩
  | illegal => exact absurd hd h

/-- Each command's encoding selects its row. -/
theorem encode_selectsRow (i : Instr) : Laws.EncodingIsTableRow.Statement i := by
  cases i with
  | nop => exact Laws.EncodingIsTableRow.nop
  | rdreg r => exact Laws.EncodingIsTableRow.rdreg r
  | clrerr => exact Laws.EncodingIsTableRow.clrerr
  | ckinit m => exact Laws.EncodingIsTableRow.ckinit m
  | cksym v => exact Laws.EncodingIsTableRow.cksym v
  | ckpfx ch => exact Laws.EncodingIsTableRow.ckpfx ch
  | ckfin => exact Laws.EncodingIsTableRow.ckfin
  | ckres => exact Laws.EncodingIsTableRow.ckres
  | ckdig k => exact Laws.EncodingIsTableRow.ckdig k
  | b32enc v => exact Laws.EncodingIsTableRow.b32enc v
  | b32dec ch => exact Laws.EncodingIsTableRow.b32dec ch
  | cvstart d st => exact Laws.EncodingIsTableRow.cvstart d st
  | cvpush v => exact Laws.EncodingIsTableRow.cvpush v
  | cvflush => exact Laws.EncodingIsTableRow.cvflush

theorem wellFormedWord_encode (i : Instr) : wellFormedWord (encode i) = true := by
  obtain ⟨r, hr, -, hsel⟩ := encode_selectsRow i
  exact List.any_eq_true.2 ⟨r, hr, hsel⟩

theorem wellFormedWord_iff : wellFormedWord w = true ↔ ∃ i, decode w = .legal i := by
  constructor
  · intro h
    obtain ⟨r, hr, hsel⟩ := List.any_eq_true.1 h
    exact decode_eq_legal_of_ne_illegal (decode_ne_illegal_of_selectsRow hr hsel)
  · rintro ⟨i, hi⟩
    rw [← encode_of_decode hi]
    exact wellFormedWord_encode i

/-- A word that selects two rows makes each pattern, under the other's mask, the same. -/
theorem patterns_agree_of_selects_both (h : selectsRow w r = true) (h' : selectsRow w r' = true) :
    r.pattern &&& r'.mask = r'.pattern &&& r.mask := by
  rw [selectsRow_iff] at h h'
  rw [← h, ← h', BitVec.and_assoc, BitVec.and_assoc, BitVec.and_comm r.mask]

theorem tableRows_patterns_differ :
    tableRows.Pairwise fun a b => a.pattern &&& b.mask ≠ b.pattern &&& a.mask := by decide

end Sys2Proof

namespace Sys2Proof.Machine

/-- Settles O1: each branch of `decode` gives back its word, and each command's fields decode to it. -/
theorem decodeInvertsEncodeBothWays : Obligations.DecodeInvertsEncodeBothWays :=
  fun _ i => ⟨encode_of_decode, fun h => h ▸ decode_encode i⟩

/-- Settles O2: a row's mask bounds the word's fields, and two rows' patterns differ under both masks. -/
theorem legalWordsAreDisjointTableRows : Obligations.LegalWordsAreDisjointTableRows :=
  ⟨fun _ => wellFormedWord_iff, tableRows_patterns_differ.imp fun hne _ ⟨ha, hb⟩ =>
    hne (patterns_agree_of_selects_both ha hb)⟩

/-- Settles O4: the fifteen words are evaluated. -/
theorem sampleWordsDecodeAsTabled : Obligations.SampleWordsDecodeAsTabled := by
  unfold Obligations.SampleWordsDecodeAsTabled
  decide

end Sys2Proof.Machine
end

section
/-! What executing one word can do, said once (R55, R112, R113): it completes, faults or is refused. From it: every step completes (R55), one response per word (R41), the invariant (R17), who writes which register (R10 to R14), and the rules over whole programs (R134, R137). -/

namespace Sys2Proof.Machine

variable {s t u : State} {i : Instr} {w : Word} {ws : List Word} {k : Cause} {rest : List PortEvent}

/-! ### The three ways a word completes -/

/-- The registers a command writes when it completes normally (R56 to R66, R75, R76, R83 to R85). -/
def written : Instr → State → State
  | .nop, s | .rdreg _, s | .ckres, s | .ckdig _, s | .b32enc _, s | .b32dec _, s => s
  | .clrerr, s => s.setEcause 0
  | .ckinit m, s => ((s.setMode m).setValid false).setC 1
  | .cksym v, s | .ckpfx v, s => s.setC (fold s.c (lowSymbol v))
  | .ckfin, s =>
    match s.mode with
    | .compute => s.setC (foldAll s.c (List.replicate 8 0))
    | .verify => s.setValid (decide (s.c = 1))
  | .cvstart d st, s => ((s.setConversion d st).setAcc 0).setBits 0
  | .cvpush v, s => (s.setAcc (pushEffect s v).acc).setBits (pushEffect s v).bits
  | .cvflush, s => (s.setAcc 0).setBits 0

/-- `t` is what a word that decodes to `c` leaves of `s`. Where the buffer is that of R17 items 1 and 2, a normal completion carries at most two outputs and leaves such a buffer. -/
inductive Completion : Command → State → State → Prop
  | done (i : Instr) (s : State) (cnt : BitVec 2) (data : Word40)
    (buffer : s.bufferOk = true → cnt.toNat ≤ 2 ∧ (written i s).bufferOk = true) :
    Completion (.legal i) s ((written i s).answered 0 cnt data)
  | fault (c : Command) (s : State) (k : Cause) (ready : s.ecause = 0) :
    Completion c s ((s.setEcause k.code).answered k.code 0 0)
  | refusal (c : Command) (s : State) (halted : s.ecause ≠ 0) : Completion c s (s.answered s.ecause 0 0)

/-- A command that answers normally, with no outputs. -/
theorem completion_of_answered {data : Word40} (h : exec i s = .next ((written i s).answered 0 0 data))
    (hbuf : s.bufferOk = true → (written i s).bufferOk = true) :
    ∃ t, exec i s = .next t ∧ Completion (.legal i) s t :=
  ⟨_, h, .done i s 0 data fun hs => ⟨by decide, hbuf hs⟩⟩

theorem raise_of_ready (ready : s.ecause = 0) : raise k s = .next ((s.setEcause k.code).answered k.code 0 0) := by
  rw [raise, State.latch_of_ready ready, State.emit_eq_answered]

theorem completion_of_raise (ready : s.ecause = 0) (h : exec i s = raise k s) :
    ∃ t, exec i s = .next t ∧ Completion (.legal i) s t :=
  ⟨_, h.trans (raise_of_ready ready), .fault _ s k ready⟩

/-- An empty buffer is one of R17, in either direction. -/
theorem bufferOk_of_empty (hb : s.bits = 0) (hacc : s.acc = 0) : s.bufferOk = true := by
  rw [bufferOk_iff, hb, hacc]
  exact ⟨toWidth_pos s.dir, by decide⟩

/-- A push leaves fewer bits than an output has, and a number that fits them (R84). -/
theorem push_buffer {v : Imm} (hbuf : s.bufferOk = true) (hv : v.toNat < 2 ^ fromWidth s.dir) :
    (pushEffect s v).cnt.toNat ≤ 2 ∧ (written (.cvpush v) s).bufferOk = true := by
  obtain ⟨hb, hacc⟩ := bufferOk_iff.1 hbuf
  have hlt : (s.bits.toNat + fromWidth s.dir) % toWidth s.dir < toWidth s.dir := Nat.mod_lt _ (toWidth_pos s.dir)
  have hle := toWidth_le_eight s.dir
  have hbits : (s.bits.toNat + fromWidth s.dir) % toWidth s.dir < 2 ^ 4 := by omega
  rw [bufferOk_iff, written, pushEffect_eq_arith hb hacc hv]
  refine ⟨(Nat.mod_le _ _).trans (outputs_per_push_le_two hb), ?_⟩
  simp only [State.setBits_bits, State.setBits_acc, State.setBits_dir, State.setAcc_acc, State.setAcc_dir,
    BitVec.toNat_ofNat, Nat.mod_eq_of_lt hbits]
  exact ⟨hlt, (Nat.mod_le _ _).trans_lt (Nat.mod_lt _ (Nat.two_pow_pos _))⟩

/-- The work of a ready block, command by command. -/
theorem exec_completion_of_ready (ready : s.ecause = 0) : ∃ t, exec i s = .next t ∧ Completion (.legal i) s t := by
  cases i with
  | nop => exact completion_of_answered exec_nop id
  | rdreg r => exact completion_of_answered exec_rdreg id
  | clrerr => exact completion_of_answered exec_clrerr id
  | ckinit m => exact completion_of_answered (exec_ckinit_of_ready ready) (by simp [written, bufferOk_iff])
  | cksym v =>
    obtain hv | hv := lt_or_ge v.toNat 32
    · exact completion_of_answered (exec_cksym_of_ready_fits ready hv) id
    · exact completion_of_raise ready (exec_cksym_of_ready_tooLarge ready hv)
  | ckpfx ch => exact completion_of_answered (exec_ckpfx_of_ready ready) id
  | ckfin =>
    cases hm : s.mode with
    | compute =>
      refine completion_of_answered (data := residue (foldAll s.c (List.replicate 8 0))) ?_ ?_ <;> rw [written, hm]
      · exact exec_ckfin_of_ready_compute ready hm
      · exact id
    | verify =>
      refine completion_of_answered (data := if s.c = 1 then 1 else 0) ?_ ?_ <;> rw [written, hm]
      · exact exec_ckfin_of_ready_verify ready hm
      · exact id
  | ckres => exact completion_of_answered (exec_ckres_of_ready ready) id
  | ckdig k => exact completion_of_answered (exec_ckdig_of_ready ready) id
  | b32enc v =>
    obtain hv | hv := lt_or_ge v.toNat 32
    · exact completion_of_answered (exec_b32enc_of_ready_fits ready hv) id
    · exact completion_of_raise ready (exec_b32enc_of_ready_tooLarge ready hv)
  | b32dec ch =>
    cases hx : alphabetIndex? ch with
    | some x => exact completion_of_answered (exec_b32dec_of_ready_known ready hx) id
    | none => exact completion_of_raise ready (exec_b32dec_of_ready_unknown ready hx)
  | cvstart d st => exact completion_of_answered (exec_cvstart_of_ready ready) fun _ => bufferOk_of_empty rfl rfl
  | cvpush v =>
    obtain hv | hv := lt_or_ge v.toNat (2 ^ fromWidth s.dir)
    · exact ⟨_, exec_cvpush_of_ready_fits ready hv, .done _ s _ _ fun hbuf => push_buffer hbuf hv⟩
    · exact completion_of_raise ready (exec_cvpush_of_ready_tooLarge ready hv)
  | cvflush =>
    cases hst : s.strictness with
    | loose =>
      refine ⟨_, exec_cvflush_of_ready_loose ready hst, .done .cvflush s _ _ fun _ => ⟨?_, bufferOk_of_empty rfl rfl⟩⟩
      split <;> simp
    | strict =>
      have hflush := exec_cvflush_of_ready_strict ready hst
      split at hflush
      · exact ⟨_, hflush, .done .cvflush s _ _ fun _ => ⟨by decide, bufferOk_of_empty rfl rfl⟩⟩
      · exact completion_of_raise ready hflush

/-- Every command completes, in one of the three ways. -/
theorem exec_completion (i : Instr) (s : State) : ∃ t, exec i s = .next t ∧ Completion (.legal i) s t := by
  by_cases h : s.ecause = 0
  · exact exec_completion_of_ready h
  · cases i
    case nop => exact completion_of_answered exec_nop id
    case rdreg r => exact completion_of_answered exec_rdreg id
    case clrerr => exact completion_of_answered exec_clrerr id
    all_goals exact ⟨_, exec_of_halted h nofun nofun nofun, .refusal _ s h⟩

/-- So does every word. -/
theorem execWord_completion (w : Word) (s : State) : ∃ t, execWord w s = .next t ∧ Completion (decode w) s t := by
  cases hd : decode w with
  | legal i => rw [execWord_of_legal hd]; exact exec_completion i s
  | illegal =>
    rw [execWord_of_illegal hd]
    by_cases h : s.ecause = 0
    · exact ⟨_, (execIllegal_of_ready h).trans (raise_of_ready h), .fault _ s _ h⟩
    · exact ⟨_, execIllegal_of_halted h, .refusal _ s h⟩

theorem completion_of_exec (h : exec i s = .next t) : Completion (.legal i) s t := by
  obtain ⟨t', ht', hc⟩ := exec_completion i s
  obtain rfl : t' = t := by simpa [ht'] using h
  exact hc

theorem completion_of_execWord (h : execWord w s = .next t) : Completion (decode w) s t := by
  obtain ⟨t', ht', hc⟩ := execWord_completion w s
  obtain rfl : t' = t := by simpa [ht'] using h
  exact hc

/-! ### The frame of each command (R10 to R14) -/

/-- `CKFIN` writes C in COMPUTE mode and VALID in VERIFY mode (R64). -/
theorem written_ckfin_compute (h : s.mode = .compute) :
    written .ckfin s = s.setC (foldAll s.c (List.replicate 8 0)) := by
  simp only [written, h]

theorem written_ckfin_verify (h : s.mode = .verify) : written .ckfin s = s.setValid (decide (s.c = 1)) := by
  simp only [written, h]

/-- Fields that both modes of `CKFIN` keep. -/
theorem written_ckfin_frame {α : Type} {f : State → α} (hc : ∀ v, f (s.setC v) = f s)
    (hv : ∀ b, f (s.setValid b) = f s) : f (written .ckfin s) = f s := by
  cases hm : s.mode with
  | compute => rw [written_ckfin_compute hm, hc]
  | verify => rw [written_ckfin_verify hm, hv]

@[simp] theorem written_input : (written i s).input = s.input := by
  cases i
  case ckfin => exact written_ckfin_frame (fun _ => rfl) fun _ => rfl
  all_goals rfl

@[simp] theorem written_abandoned : (written i s).abandoned = s.abandoned := by
  cases i
  case ckfin => exact written_ckfin_frame (fun _ => rfl) fun _ => rfl
  all_goals rfl

@[simp] theorem written_responses : (written i s).responses = s.responses := by
  cases i
  case ckfin => exact written_ckfin_frame (fun _ => rfl) fun _ => rfl
  all_goals rfl

theorem written_c (h : (written i s).c ≠ s.c) :
    (∃ m, i = .ckinit m) ∨ (∃ v, i = .cksym v) ∨ (∃ ch, i = .ckpfx ch) ∨ (i = .ckfin ∧ s.mode = .compute) := by
  cases i
  case ckinit m => exact .inl ⟨m, rfl⟩
  case cksym v => exact .inr (.inl ⟨v, rfl⟩)
  case ckpfx ch => exact .inr (.inr (.inl ⟨ch, rfl⟩))
  case ckfin =>
    cases hm : s.mode with
    | compute => exact .inr (.inr (.inr ⟨rfl, rfl⟩))
    | verify => exact absurd (by rw [written_ckfin_verify hm, State.setValid_c]) h
  all_goals exact absurd rfl h

theorem written_buffer (h : (written i s).acc ≠ s.acc ∨ (written i s).bits ≠ s.bits) :
    (∃ d st, i = .cvstart d st) ∨ (∃ v, i = .cvpush v) ∨ i = .cvflush := by
  cases i
  case cvstart d st => exact .inl ⟨d, st, rfl⟩
  case cvpush v => exact .inr (.inl ⟨v, rfl⟩)
  case cvflush => exact .inr (.inr rfl)
  case ckfin =>
    exact absurd (written_ckfin_frame (fun _ => rfl) fun _ => rfl)
      (h.resolve_left fun hacc => hacc (written_ckfin_frame (fun _ => rfl) fun _ => rfl))
  all_goals exact absurd rfl (h.resolve_left fun hacc => hacc rfl)

theorem written_mode (h : (written i s).mode ≠ s.mode) : i = .ckinit (written i s).mode := by
  cases i
  case ckinit m => simp [written]
  case cvstart d st => exact absurd (State.setConversion_mode s d st) h
  case ckfin => exact absurd (written_ckfin_frame (fun _ => rfl) fun _ => rfl) h
  all_goals exact absurd rfl h

theorem written_conversion (h : (written i s).dir ≠ s.dir ∨ (written i s).strictness ≠ s.strictness) :
    i = .cvstart (written i s).dir (written i s).strictness := by
  cases i
  case cvstart d st => simp [written]
  case ckinit m => simp [written] at h
  case ckfin =>
    exact absurd (written_ckfin_frame (fun _ => rfl) fun _ => rfl)
      (h.resolve_left fun hd => hd (written_ckfin_frame (fun _ => rfl) fun _ => rfl))
  all_goals exact absurd rfl (h.resolve_left fun hd => hd rfl)

theorem written_valid (h : (written i s).valid ≠ s.valid) :
    (∃ m, i = .ckinit m) ∨ (i = .ckfin ∧ s.mode = .verify) := by
  cases i
  case ckinit m => exact .inl ⟨m, rfl⟩
  case clrerr => exact absurd (State.setEcause_valid s 0) h
  case ckfin =>
    cases hm : s.mode with
    | compute => exact absurd (by rw [written_ckfin_compute hm, State.setC_valid]) h
    | verify => exact .inr ⟨rfl, rfl⟩
  all_goals exact absurd rfl h

theorem written_ecause (h : i ≠ .clrerr) : (written i s).ecause = s.ecause := by
  cases i
  case clrerr => exact absurd rfl h
  case ckinit m => simp [written]
  case ckfin => exact written_ckfin_frame (fun _ => rfl) fun b => State.setValid_ecause s b
  all_goals rfl

theorem written_clrerr_ecause : (written .clrerr s).ecause = 0 := State.setEcause_ecause s 0

/-! ### One response per word (R41), and what a reset leaves (R125) -/

theorem Completion.input_eq {c : Command} (h : Completion c s t) : t.input = s.input := by
  cases h <;> simp

/-- The response a word adds; one with a cause carries nothing else. -/
theorem Completion.exists_response {c : Command} (h : Completion c s t) :
    ∃ r : Response, t.responses = s.responses ++ [r] ∧ (r.cause ≠ 0 → r.cnt = 0 ∧ r.data = 0) ∧
      (s.Inv → r.cause.toNat ≤ 4 ∧ r.cnt.toNat ≤ 2) := by
  cases h with
  | done i s cnt data buffer =>
    refine ⟨⟨0, cnt, data⟩, by simp, fun hcause => absurd rfl hcause, fun inv => ⟨by simp, ?_⟩⟩
    exact (buffer (bufferOk_iff.2 ⟨inv.bits_lt, inv.acc_lt⟩)).1
  | fault c s k ready => exact ⟨⟨k.code, 0, 0⟩, by simp, fun _ => ⟨rfl, rfl⟩, fun _ => by cases k <;> decide⟩
  | refusal c s halted => exact ⟨⟨s.ecause, 0, 0⟩, by simp, fun _ => ⟨rfl, rfl⟩, fun inv => ⟨inv.ecause_le, by simp⟩⟩

theorem step_of_rst (hin : s.input = .rst :: rest) : step s = .next (s.takeEvent rest).applyReset := by
  rw [step, hin]

theorem step_of_cmdCutByRst (hin : s.input = .cmdCutByRst w :: rest) : step s = .next (s.takeEvent rest).abandon := by
  rw [step, hin]

theorem step_completes (s : State) : ∃ t, step s = .next t := by
  cases hin : s.input with
  | nil => exact ⟨_, step_of_nil hin⟩
  | cons e rest =>
    cases e with
    | rst => exact ⟨_, step_of_rst hin⟩
    | cmdCutByRst w => exact ⟨_, step_of_cmdCutByRst hin⟩
    | cmd w =>
      obtain ⟨t, ht, -⟩ := execWord_completion w (s.takeEvent rest)
      exact ⟨t, (step_of_cmd hin).trans ht⟩

theorem applyReset_sameRegisters (s : State) : SameRegisters State.reset s.applyReset := ⟨rfl, rfl, rfl, rfl, rfl⟩

theorem abandon_sameRegisters (s : State) : SameRegisters State.reset s.abandon := by
  obtain ⟨rs, -, heq⟩ := s.abandon_eq
  rw [heq]
  exact ⟨rfl, rfl, rfl, rfl, rfl⟩

theorem abandon_input (s : State) : s.abandon.input = s.input := by
  obtain ⟨rs, -, heq⟩ := s.abandon_eq
  rw [heq]

/-! ### The fields of states with the same registers -/

theorem SameRegisters.mode (h : SameRegisters s t) : t.mode = s.mode := by rw [State.mode, State.mode, h.ctrl]

theorem SameRegisters.dir (h : SameRegisters s t) : t.dir = s.dir := by rw [State.dir, State.dir, h.ctrl]

theorem SameRegisters.strictness (h : SameRegisters s t) : t.strictness = s.strictness := by
  rw [State.strictness, State.strictness, h.ctrl]

theorem SameRegisters.ecause (h : SameRegisters s t) : t.ecause = s.ecause := by
  rw [State.ecause, State.ecause, h.status]

theorem SameRegisters.valid (h : SameRegisters s t) : t.valid = s.valid := by rw [State.valid, State.valid, h.status]

/-- Registers are the same when their fields are. -/
theorem SameRegisters.of_fields (hc : t.c = s.c) (hacc : t.acc = s.acc) (hbits : t.bits = s.bits)
    (hmode : t.mode = s.mode) (hdir : t.dir = s.dir) (hstrict : t.strictness = s.strictness)
    (hvalid : t.valid = s.valid) (hecause : t.ecause = s.ecause) : SameRegisters s t :=
  ⟨hc, hacc, hbits, ctrl_eq_of_fields s t hmode hdir hstrict, status_eq_of_fields s t hvalid hecause⟩

/-! ### The invariant (R17) -/

theorem State.Inv.of_sameRegisters (h : s.Inv) (hsame : SameRegisters s t) : t.Inv where
  bits_lt := by rw [hsame.bits, hsame.dir]; exact h.bits_lt
  acc_lt := by rw [hsame.acc, hsame.bits]; exact h.acc_lt
  ecause_le := by rw [hsame.ecause]; exact h.ecause_le
  valid_off := by rw [hsame.mode, hsame.valid]; exact h.valid_off

theorem reset_inv : State.reset.Inv := ⟨by decide, by decide, by decide, fun _ => rfl⟩

theorem Cause.code_le_four (k : Cause) : k.code.toNat ≤ 4 := by cases k <;> decide

theorem State.Inv.setEcause_code (h : s.Inv) (k : Cause) : (s.setEcause k.code).Inv where
  bits_lt := h.bits_lt
  acc_lt := h.acc_lt
  ecause_le := by simpa using k.code_le_four
  valid_off := by simpa using h.valid_off

/-- Item 3: only `CLRERR` writes the cause of a command that completes normally. -/
theorem written_ecause_le (h : s.ecause.toNat ≤ 4) : (written i s).ecause.toNat ≤ 4 := by
  by_cases hi : i = .clrerr
  · rw [hi, written_clrerr_ecause]; decide
  · rwa [written_ecause hi]

/-- Item 4: `CKINIT` clears VALID whatever mode it sets, and only `CKFIN` in VERIFY mode sets it. -/
theorem written_valid_off (h : s.mode = .compute → s.valid = false) :
    (written i s).mode = .compute → (written i s).valid = false := by
  cases i
  case ckinit m => exact fun _ => State.setValid_valid ..
  case ckfin =>
    cases hm : s.mode with
    | compute => rw [written_ckfin_compute hm]; exact h
    | verify => intro hcompute; simp [written_ckfin_verify hm, hm] at hcompute
  case clrerr => simpa [written] using h
  case cvstart d st => simpa [written] using h
  all_goals exact h

theorem Completion.inv {c : Command} (h : Completion c s t) (inv : s.Inv) : t.Inv := by
  cases h with
  | done i s cnt data buffer =>
    obtain ⟨hb, hacc⟩ := bufferOk_iff.1 (buffer (bufferOk_iff.2 ⟨inv.bits_lt, inv.acc_lt⟩)).2
    exact ⟨hb, hacc, written_ecause_le inv.ecause_le, written_valid_off inv.valid_off⟩
  | fault c s k ready => exact (inv.setEcause_code k).of_sameRegisters (.answered ..)
  | refusal c s halted => exact inv.of_sameRegisters (.answered ..)

theorem step_inv (inv : s.Inv) (h : step s = .next t) : t.Inv := by
  cases hin : s.input with
  | nil =>
    obtain rfl : s = t := by simpa [step_of_nil hin] using h
    exact inv
  | cons e rest =>
    cases e with
    | rst =>
      obtain rfl : (s.takeEvent rest).applyReset = t := by simpa [step_of_rst hin] using h
      exact reset_inv.of_sameRegisters (applyReset_sameRegisters _)
    | cmdCutByRst w =>
      obtain rfl : (s.takeEvent rest).abandon = t := by simpa [step_of_cmdCutByRst hin] using h
      exact reset_inv.of_sameRegisters (abandon_sameRegisters _)
    | cmd w =>
      rw [step_of_cmd hin] at h
      exact (completion_of_execWord h).inv (inv.of_sameRegisters ⟨rfl, rfl, rfl, rfl, rfl⟩)

end Sys2Proof.Machine

namespace Sys2Proof.Machine

/-- Settles O11: by the event a step takes; a word completes, faults or is refused, and each keeps the four items. -/
theorem everyStepKeepsTheInvariant : Obligations.EveryStepKeepsTheInvariant :=
  fun _ _ => step_inv

/-- Settles O10: the four items of the reset state. -/
theorem invariantHoldsAtReset : Obligations.InvariantHoldsAtReset := reset_inv

/-- Settles O5: one lemma per event at the head of the queue. -/
theorem stepRunsTheDecodedCommand : Obligations.StepRunsTheDecodedCommand := by
  refine fun s => ⟨step_of_nil, fun rest hin => step_of_rst hin, fun w rest hin => ?cut, fun w rest hin => ?cmd,
    fun w i hd => ?fetch⟩
  case cut =>
    obtain ⟨rs, hlen, heq⟩ := (s.takeEvent rest).abandon_eq
    exact ⟨rs, hlen, (step_of_cmdCutByRst hin).trans (congrArg _ heq)⟩
  case cmd =>
    rw [step_of_cmd hin]
    exact ⟨fun i hd => execWord_of_legal hd, execWord_of_illegal⟩
  case fetch =>
    have hw : BitVec.ofNat 16 (w.toNat % 2 ^ 16) = w := by
      rw [Nat.mod_eq_of_lt w.isLt, BitVec.ofNat_toNat, BitVec.setWidth_eq]
    have hin : (s.withFetchWord 16 w.toNat).input = .cmd w :: s.input := by rw [State.withFetchWord, hw]; rfl
    exact (step_of_cmd hin).trans (execWord_of_legal hd)

/-- Settles O6: whatever the next event is, and whatever the command. -/
theorem everyStepAndCommandCompletes : Obligations.EveryStepAndCommandCompletes :=
  ⟨step_completes, fun i s => (exec_completion i s).imp fun _ h => h.1⟩

/-- Settles O7: the step is the word's completion in the state without it, which adds one response. -/
theorem everyCommandWordGetsOneResponse : Obligations.EveryCommandWordGetsOneResponse := by
  intro s w rest hin
  obtain ⟨t, ht, hc⟩ := execWord_completion w (s.takeEvent rest)
  obtain ⟨r, hr, hcause, hbounds⟩ := hc.exists_response
  exact ⟨t, r, (step_of_cmd hin).trans ht, hc.input_eq, hr, hcause,
    fun inv => hbounds (inv.of_sameRegisters ⟨rfl, rfl, rfl, rfl, rfl⟩)⟩

/-- Settles O8: both resets leave the reset state's registers and the rest of the queue. -/
theorem resetSetsEveryRegister : Obligations.ResetSetsEveryRegister := by
  refine ⟨by decide, ?_⟩
  rintro s rest (hin | ⟨w, hin⟩)
  · exact ⟨_, step_of_rst hin, applyReset_sameRegisters _, rfl⟩
  · exact ⟨_, step_of_cmdCutByRst hin, abandon_sameRegisters _, abandon_input _⟩

/-- Settles O48: a fault writes the latch of a ready block, a refusal nothing, and a normal completion what `written` says. -/
theorem onlyTheNamedCommandsWriteEachRegister : Obligations.OnlyTheNamedCommandsWriteEachRegister := by
  intro i s t h
  cases completion_of_exec h with
  | done _ _ cnt data buffer =>
    refine ⟨written_input, written_abandoned, written_c, written_buffer, written_mode, written_conversion,
      written_valid, fun hne => .inl ?_⟩
    exact not_not.1 fun hi => hne (written_ecause hi)
  | fault _ _ k ready => simp [ready]
  | refusal _ _ halted => simp

end Sys2Proof.Machine
end

section
/-! Whole programs: how a run is put together from its commands (R137), what every run leaves (R134, R137), and the sequence of R18. -/

namespace Sys2Proof.Machine

variable {s t u : State} {i : Instr} {w : Word} {ws : List Word} {cmds : List Instr} {r : Response} {rs : List Response}

/-! ### Runs of words -/

/-- A run keeps what executing each of its words keeps. -/
theorem runProgram_keeps {P : State → Prop} (hkeep : ∀ w ∈ ws, ∀ s t, execWord w s = .next t → P s → P t)
    (h : P s) : ∃ t, runProgram ws s = .next t ∧ P t := by
  induction ws generalizing s with
  | nil => exact ⟨s, rfl, h⟩
  | cons w ws ih =>
    obtain ⟨u, hu, -⟩ := execWord_completion w s
    obtain ⟨t, ht, hPt⟩ :=
      ih (fun w' hw' => hkeep w' (List.mem_cons_of_mem w hw')) (hkeep w List.mem_cons_self s u hu h)
    exact ⟨t, (runProgram_cons hu).trans ht, hPt⟩

theorem runProgram_append {ws' : List Word} (h : runProgram ws s = .next t) :
    runProgram (ws ++ ws') s = runProgram ws' t := by
  induction ws generalizing s with
  | nil =>
    obtain rfl : s = t := by simpa using h
    rfl
  | cons w ws ih =>
    obtain ⟨u, hu, -⟩ := execWord_completion w s
    rw [runProgram_cons hu] at h
    exact (runProgram_cons hu).trans (ih h)

theorem Completion.exists_response_cause {c : Command} (h : Completion c s t) (hc : c ≠ .legal .clrerr) :
    ∃ r : Response, t.responses = s.responses ++ [r] ∧ (s.ecause = 0 → (r.cause = 0 ↔ t.ecause = 0)) := by
  cases h with
  | done i _ cnt data _ =>
    have hi : i ≠ .clrerr := fun hi => hc (by rw [hi])
    exact ⟨⟨0, cnt, data⟩, by simp, fun ready => by simp [written_ecause hi, ready]⟩
  | fault _ _ k _ => exact ⟨⟨k.code, 0, 0⟩, by simp, fun _ => by simp⟩
  | refusal _ _ halted => exact ⟨⟨s.ecause, 0, 0⟩, by simp, fun ready => absurd ready halted⟩

/-- The run of `ws` from `s` completes in `t` with the responses `rs`, one per word (R137). -/
structure ProgramRun (ws : List Word) (s : State) (rs : List Response) (t : State) : Prop where
  run : runProgram ws s = .next t
  responses : t.responses = s.responses ++ rs
  one_each : rs.length = ws.length

theorem ProgramRun.nil (s : State) : ProgramRun [] s [] s := ⟨rfl, (List.append_nil _).symm, rfl⟩

theorem ProgramRun.cons (h : execWord w s = .next u) (hr : u.responses = s.responses ++ [r])
    (hrun : ProgramRun ws u rs t) : ProgramRun (w :: ws) s (r :: rs) t where
  run := (runProgram_cons h).trans hrun.run
  responses := by rw [hrun.responses, hr, List.append_assoc]; rfl
  one_each := congrArg (· + 1) hrun.one_each

theorem programRun_exists (ws : List Word) (s : State) : ∃ rs t, ProgramRun ws s rs t := by
  induction ws generalizing s with
  | nil => exact ⟨[], s, .nil s⟩
  | cons w ws ih =>
    obtain ⟨u, hu, hc⟩ := execWord_completion w s
    obtain ⟨r, hr, -⟩ := hc.exists_response
    obtain ⟨rs, t, hrun⟩ := ih u
    exact ⟨r :: rs, t, .cons hu hr hrun⟩

/-- R137: the first response with a cause latches it, and nothing but `CLRERR` would clear it again. -/
theorem programRun_clean_iff (ws : List Word) (ready : s.ecause = 0) (hws : (0x2000 : Word) ∉ ws) :
    ∃ rs t, ProgramRun ws s rs t ∧ ((∀ r ∈ rs, r.cause = 0) ↔ t.ecause = 0) := by
  induction ws generalizing s with
  | nil => exact ⟨[], s, .nil s, by simp [ready]⟩
  | cons w ws ih =>
    obtain ⟨hw, hws⟩ := not_or.1 (mt List.mem_cons.2 hws)
    obtain ⟨u, hu, hc⟩ := execWord_completion w s
    obtain ⟨r, hr, hcause⟩ := hc.exists_response_cause fun hd => hw (decode_eq_clrerr_iff.1 hd).symm
    have hcause := hcause ready
    by_cases hu0 : u.ecause = 0
    · obtain ⟨rs, t, hrun, hiff⟩ := ih hu0 hws
      refine ⟨r :: rs, t, .cons hu hr hrun, ?_⟩
      rw [List.forall_mem_cons, hiff]
      exact and_iff_right (hcause.2 hu0)
    · obtain ⟨rs, t, hrun⟩ := programRun_exists ws u
      obtain ⟨t', ht', hsame⟩ := runProgram_of_halted ws hu0 hws
      obtain rfl : t = t' := by simpa [hrun.run] using ht'
      refine ⟨r :: rs, t, .cons hu hr hrun, ?_⟩
      rw [hsame.ecause]
      exact ⟨fun hall => hcause.1 (hall r List.mem_cons_self), fun ht0 => absurd ht0 hu0⟩

theorem execWord_keeps_mode (hw : ∀ m, decode w ≠ .legal (.ckinit m)) (h : execWord w s = .next t) :
    t.mode = s.mode := by
  have hc := completion_of_execWord h
  revert hw hc
  generalize decode w = c
  rintro hw (⟨i, _, cnt, data, _⟩ | ⟨_, _, k, _⟩ | _)
  · by_contra hne
    exact hw _ (congrArg _ (written_mode hne))
  · simp
  · simp

theorem execWord_keeps_conversion (hw : ∀ d st, decode w ≠ .legal (.cvstart d st)) (h : execWord w s = .next t) :
    t.dir = s.dir ∧ t.strictness = s.strictness := by
  have hc := completion_of_execWord h
  revert hw hc
  generalize decode w = c
  rintro hw (⟨i, _, cnt, data, _⟩ | ⟨_, _, k, _⟩ | _)
  · by_contra hne
    exact hw _ _ (congrArg _ (written_conversion (not_and_or.1 hne)))
  · simp
  · simp

/-! ### Runs of commands -/

theorem wordsOf_append (xs ys : List Instr) : wordsOf (xs ++ ys) = wordsOf xs ++ wordsOf ys := List.map_append

/-- One command, then the rest of the run. -/
theorem Completes.cons_answered {cause : BitVec 3} {cnt : BitVec 2} {data : Word40}
    (h : exec i s = .next (u.answered cause cnt data)) (hu : u.responses = s.responses)
    (hc : Completes cmds (u.answered cause cnt data) rs t) : Completes (i :: cmds) s (⟨cause, cnt, data⟩ :: rs) t :=
  .cons (decode_encode i) h (by rw [State.answered_responses, hu]) hc

theorem Completes.single {cause : BitVec 3} {cnt : BitVec 2} {data : Word40}
    (h : exec i s = .next (u.answered cause cnt data)) (hu : u.responses = s.responses) :
    Completes [i] s [⟨cause, cnt, data⟩] (u.answered cause cnt data) :=
  .cons_answered h hu (.nil _)

theorem Completes.append {cmds' : List Instr} {rs' : List Response} (h : Completes cmds s rs t)
    (h' : Completes cmds' t rs' u) : Completes (cmds ++ cmds') s (rs ++ rs') u where
  run := by
    rw [runCommands, wordsOf_append]
    exact (runProgram_append h.run).trans h'.run
  responses := by rw [h'.responses, h.responses, List.append_assoc]
  one_each := by rw [List.length_append, h.one_each, h'.one_each, List.length_append]
  input := h'.input.trans h.input

/-- From every state with the registers of `s`, the command `i` only responds `r`. -/
def Answers (i : Instr) (s : State) (r : Response) : Prop :=
  ∀ u, SameRegisters s u → exec i u = .next (u.emit r)

/-- A run of commands that only answer. -/
theorem Completes.map_of_answers {α : Type} {f : α → Instr} {g : α → Response} (xs : List α)
    (hans : ∀ x ∈ xs, Answers (f x) s (g x)) :
    ∃ t, Completes (xs.map f) s (xs.map g) t ∧ SameRegisters s t := by
  suffices h : ∀ u, SameRegisters s u → ∃ t, Completes (xs.map f) u (xs.map g) t ∧ SameRegisters s t from
    h s (.refl s)
  induction xs with
  | nil => exact fun u hu => ⟨u, .nil u, hu⟩
  | cons x xs ih =>
    intro u hu
    have hx := hans x List.mem_cons_self u hu
    obtain ⟨t, ht, hsame⟩ :=
      ih (fun y hy => hans y (List.mem_cons_of_mem x hy)) (u.emit (g x)) (hu.trans (.answered ..))
    exact ⟨t, .cons (decode_encode _) hx rfl ht, hsame⟩

/-- The commands that stand behind the halted gate: all but the three system commands (R113). -/
def BehindGate (i : Instr) : Prop := i ≠ .nop ∧ i ≠ .clrerr ∧ ∀ r, i ≠ .rdreg r

/-- A halted block refuses the commands behind its gate, whatever else has changed (R113). -/
theorem answers_of_halted {k : BitVec 3} (hk : s.ecause = k) (halted : k ≠ 0) (hgate : BehindGate i) :
    Answers i s ⟨k, 0, 0⟩ := by
  obtain ⟨hnop, hclrerr, hrdreg⟩ := hgate
  intro u hu
  obtain rfl : u.ecause = k := hu.ecause.trans hk
  exact exec_of_halted halted hnop hclrerr hrdreg

/-- After a fault, the rest of a run behind the gate is refused with its cause (R112, R113). -/
theorem Completes.fault_refused {k : Cause} (ready : s.ecause = 0) (h : exec i s = raise k s)
    (hgate : ∀ j ∈ cmds, BehindGate j) :
    ∃ t, Completes (i :: cmds) s (List.replicate (cmds.length + 1) ⟨k.code, 0, 0⟩) t ∧ t.ecause = k.code := by
  have hk : ((s.setEcause k.code).answered k.code 0 0).ecause = k.code := State.setEcause_ecause ..
  obtain ⟨t, hrun, hsame⟩ := map_of_answers (f := id) (g := fun _ => ⟨k.code, 0, 0⟩)
    (s := (s.setEcause k.code).answered k.code 0 0) cmds fun j hj =>
      answers_of_halted hk k.code_ne_zero (hgate j hj)
  rw [List.map_id, List.map_const'] at hrun
  exact ⟨t, .cons_answered (h.trans (raise_of_ready ready)) rfl hrun, hsame.ecause.trans hk⟩

end Sys2Proof.Machine

namespace Sys2Proof.Machine

/-- Settles O16: by induction on the program, up to its first fault, after which the block stays halted. -/
theorem cleanRunIffNothingLatchedAtEnd : Obligations.CleanRunIffNothingLatchedAtEnd := by
  intro ws s ready hws
  obtain ⟨rs, t, hrun, hiff⟩ := programRun_clean_iff ws ready hws
  exact ⟨t, rs, hrun.run, hrun.responses, hrun.one_each, hiff⟩

/-- Settles O49: every word but a `CKINIT` keeps MODE, every word but a `CVSTART` the other two fields, so a run does. -/
theorem modeAndDirectionAreSticky : Obligations.ModeAndDirectionAreSticky := by
  intro ws s
  obtain ⟨t, ht, hmode⟩ := runProgram_keeps (ws := ws) (s := s)
    (P := fun t => (∀ w ∈ ws, ∀ m, decode w ≠ .legal (.ckinit m)) → t.mode = s.mode)
    (fun w hw u v huv hu hws => (execWord_keeps_mode (hws w hw) huv).trans (hu hws)) fun _ => rfl
  obtain ⟨t', ht', hconv⟩ := runProgram_keeps (ws := ws) (s := s)
    (P := fun t => (∀ w ∈ ws, ∀ d st, decode w ≠ .legal (.cvstart d st)) → t.dir = s.dir ∧ t.strictness = s.strictness)
    (fun w hw u v huv hu hws => by
      obtain ⟨hd, hst⟩ := execWord_keeps_conversion (hws w hw) huv
      exact ⟨hd.trans (hu hws).1, hst.trans (hu hws).2⟩) fun _ => ⟨rfl, rfl⟩
  obtain rfl : t = t' := by simpa [ht] using ht'
  exact ⟨t, ht, hmode, hconv⟩

/-- Settles O9: the three commands write every field of every register. -/
theorem freshStartSequenceReachesResetState : Obligations.FreshStartSequenceReachesResetState := by
  intro s
  have hready : (s.setEcause 0).ecause = 0 := State.setEcause_ecause s 0
  refine ⟨_, _, .cons_answered exec_clrerr rfl (.cons_answered (exec_ckinit_of_ready hready) rfl
    (.single (exec_cvstart_of_ready ?ready) rfl)), ?registers⟩
  case ready => simp
  case registers => apply SameRegisters.of_fields <;> simp <;> rfl

end Sys2Proof.Machine
end

section
/-! Checksum runs: `fold` is linear (R68) and one to one (R73), eight digits fold to their own value (R72), and what the runs of R69 to R71 and R48 compute. -/

namespace Sys2Proof.Machine

variable {s t u : State} {i : Instr} {m : Mode} {cmds : List Instr} {vs : List Symbol}

/-! ### `fold` is linear (R68) -/

theorem foldGenerator_linear (top top' : Symbol) (c c' : Word40) (i : Nat) :
    foldGenerator (top ^^^ top') (c ^^^ c') i = foldGenerator top c i ^^^ foldGenerator top' c' i := by
  apply BitVec.eq_of_getLsbD_eq
  intro j hj
  simp only [foldGenerator_getLsbD, BitVec.getLsbD_xor, Bool.and_xor_distrib_right, Bool.xor_assoc, Bool.xor_left_comm]

theorem foldGenerators_linear (top top' : Symbol) (is : List Nat) (c c' : Word40) :
    is.foldl (foldGenerator (top ^^^ top')) (c ^^^ c') =
      is.foldl (foldGenerator top) c ^^^ is.foldl (foldGenerator top') c' := by
  induction is generalizing c c' with
  | nil => rfl
  | cons i is ih => rw [List.foldl_cons, foldGenerator_linear, ih]; rfl

/-- The state shifted up by one symbol, with the new symbol below it. -/
def shiftIn (c : Word40) (v : Symbol) : Word40 := ((c &&& 0x07ffffffff) <<< 5) ^^^ v.setWidth 40

theorem fold_eq_foldl (c : Word40) (v : Symbol) :
    fold c v = [0, 1, 2, 3, 4].foldl (foldGenerator (c.extractLsb' 35 5)) (shiftIn c v) := rfl

theorem shiftIn_linear (a b : Word40) (v w : Symbol) : shiftIn (a ^^^ b) (v ^^^ w) = shiftIn a v ^^^ shiftIn b w := by
  apply BitVec.eq_of_getLsbD_eq
  intro j hj
  simp only [BitVec.getLsbD_xor, shiftIn, shiftIn_getLsbD _ _ hj]
  split <;> rfl

theorem fold_linear (a b : Word40) (v w : Symbol) : fold (a ^^^ b) (v ^^^ w) = fold a v ^^^ fold b w := by
  rw [fold_eq_foldl, fold_eq_foldl, fold_eq_foldl, BitVec.extractLsb'_xor, shiftIn_linear, foldGenerators_linear]

/-! ### `fold` is one to one in each argument (R73) -/

/-- No generator is applied to a state whose top symbol is 0. -/
theorem fold_of_top_eq_zero {c : Word40} (h : c.extractLsb' 35 5 = 0) (v : Symbol) : fold c v = shiftIn c v := by
  rw [fold_eq_foldl, h]
  simp [foldGenerator]

/-- The low bits of the five generators are the five unit symbols, so those of the new state give the top symbol back. -/
theorem generators_low (i j : Nat) (hi : i < 5) (hj : j < 5) : (generators.getD i 0).getLsbD j = decide (i = j) := by
  interval_cases i <;> interval_cases j <;> rfl

theorem fold_zero_low (c : Word40) (j : Nat) (hj : j < 5) : (fold c 0).getLsbD j = c.getLsbD (35 + j) := by
  rw [fold_eq_foldl]
  have hj40 : j < 40 := by omega
  simp only [List.foldl_cons, List.foldl_nil, foldGenerator_getLsbD, shiftIn, shiftIn_getLsbD c 0 hj40, hj, if_true]
  simp (disch := omega) only [top_getLsbD, generators_low]
  interval_cases j <;> simp

theorem eq_zero_of_fold_zero {c : Word40} (h : fold c 0 = 0) : c = 0 := by
  have htop (j : Nat) (hj : j < 5) : c.getLsbD (35 + j) = false := by rw [← fold_zero_low c j hj, h]; simp
  have htop0 : c.extractLsb' 35 5 = 0 := by
    apply BitVec.eq_of_getLsbD_eq
    intro j hj
    rw [top_getLsbD c hj, htop j hj]; simp
  rw [fold_of_top_eq_zero htop0] at h
  apply BitVec.eq_of_getLsbD_eq
  intro j hj
  rw [BitVec.ofNat_eq_ofNat, BitVec.getLsbD_zero]
  by_cases hlow : j < 35
  · have hbit := shiftIn_getLsbD c 0 (by omega : j + 5 < 40)
    change (shiftIn c 0).getLsbD (j + 5) = _ at hbit
    rw [h, if_neg (by omega), Nat.add_sub_cancel, BitVec.ofNat_eq_ofNat, BitVec.getLsbD_zero] at hbit
    exact hbit.symm
  · obtain ⟨k, rfl⟩ := Nat.exists_eq_add_of_le (not_lt.1 hlow)
    exact htop k (by omega)

/-- Two states that fold the same symbol to the same state are the same. -/
theorem fold_left_injective (v : Symbol) : Function.Injective fun c => fold c v := by
  intro a b h
  have hdiff : fold (a ^^^ b) 0 = 0 := by
    rw [BitVec.ofNat_eq_ofNat, ← BitVec.xor_self (x := v), fold_linear]
    exact BitVec.xor_eq_zero_iff.2 h
  exact BitVec.xor_eq_zero_iff.1 (eq_zero_of_fold_zero hdiff)

theorem fold_zero_left (v : Symbol) : fold 0 v = v.setWidth 40 := by
  rw [fold_of_top_eq_zero (by simp)]
  simp [shiftIn]

/-- Two symbols that fold into the same state to the same state are the same. -/
theorem fold_right_injective (c : Word40) : Function.Injective (fold c) := by
  intro v w h
  have hdiff : fold (c ^^^ c) (v ^^^ w) = 0 := by
    rw [fold_linear]
    exact BitVec.xor_eq_zero_iff.2 h
  rw [BitVec.xor_self, ← BitVec.ofNat_eq_ofNat, fold_zero_left] at hdiff
  have hlow := congrArg (BitVec.setWidth 5) hdiff
  simpa using hlow

/-! ### Folding a sequence (R69) -/

theorem foldAll_cons (c : Word40) (v : Symbol) (vs : List Symbol) :
    foldAll c (v :: vs) = foldAll (fold c v) vs := rfl

theorem foldAll_append (c : Word40) (vs ws : List Symbol) : foldAll c (vs ++ ws) = foldAll (foldAll c vs) ws :=
  List.foldl_append

theorem compute_eq (vs : List Symbol) : compute vs = residue (foldAll 1 vs) := rfl

theorem foldAll_injective (vs : List Symbol) : Function.Injective fun c => foldAll c vs := by
  induction vs with
  | nil => exact fun a b h => h
  | cons v vs ih => exact ih.comp (fold_left_injective v)

/-- A sequence folds to what as many zeros make of the state, with what it folds to from 0. -/
theorem foldAll_eq_zeros_xor (vs : List Symbol) (a b : Word40) :
    foldAll (a ^^^ b) vs = foldAll a (List.replicate vs.length 0) ^^^ foldAll b vs := by
  induction vs generalizing a b with
  | nil => rfl
  | cons v vs ih =>
    rw [List.length_cons, List.replicate_succ, foldAll_cons, foldAll_cons, foldAll_cons, ← ih, ← fold_linear]
    simp

/-- Folding a number's low symbol into the rest of the number gives the number. -/
theorem fold_ushiftRight_low (x : Word40) : fold (x >>> 5) (x.extractLsb' 0 5) = x := by
  have htop : (x >>> 5).extractLsb' 35 5 = 0 := by
    apply BitVec.eq_of_getLsbD_eq
    intro j hj
    simpa [hj] using BitVec.getLsbD_of_ge x (5 + (35 + j)) (by omega)
  rw [fold_of_top_eq_zero htop]
  apply BitVec.eq_of_getLsbD_eq
  intro j hj
  rw [shiftIn, shiftIn_getLsbD _ _ hj]
  split
  case isTrue h => simp [h]
  case isFalse h => rw [BitVec.getLsbD_ushiftRight, Nat.add_sub_cancel' (not_lt.1 h)]

theorem foldAll_lowDigits (n : Nat) (x : Word40) : foldAll (x >>> (5 * n)) (lowDigits n x).reverse = x := by
  induction n generalizing x with
  | zero => exact BitVec.ushiftRight_zero x
  | succ n ih =>
    have hshift : x >>> (5 * (n + 1)) = x >>> 5 >>> (5 * n) := by
      rw [Nat.mul_succ, Nat.add_comm, BitVec.shiftRight_add]
    rw [lowDigits, List.reverse_cons, foldAll_append, hshift, ih]
    exact fold_ushiftRight_low x

/-- Eight digits folded into 0 are their number (R27). -/
theorem foldAll_zero_toDigits (x : Word40) : foldAll 0 (toDigits x) = x := by
  have hzero : x >>> (5 * 8) = 0 := by
    apply BitVec.eq_of_getLsbD_eq
    intro j hj
    rw [BitVec.getLsbD_ushiftRight, BitVec.ofNat_eq_ofNat, BitVec.getLsbD_zero]
    exact BitVec.getLsbD_of_ge x _ (by omega)
  have h := foldAll_lowDigits 8 x
  rwa [hzero] at h

theorem toDigits_length (r : Word40) : (toDigits r).length = 8 := by
  rw [toDigits_eq_slices]
  simp

/-- R72: the residue's own digits in the place of the eight zeros make the residue 0. -/
theorem compute_append_toDigits (vs : List Symbol) :
    compute (vs ++ toDigits (compute (vs ++ List.replicate 8 0))) = 0 := by
  have hdigits (r : Word40) :
      foldAll (foldAll 1 vs) (toDigits r) = foldAll (foldAll 1 vs) (List.replicate 8 0) ^^^ r := by
    conv_lhs => rw [← BitVec.xor_zero (x := foldAll 1 vs)]
    rw [foldAll_eq_zeros_xor, toDigits_length, ← BitVec.ofNat_eq_ofNat, foldAll_zero_toDigits]
  rw [compute_eq, compute_eq, foldAll_append, hdigits, foldAll_append, residue, residue, ← BitVec.xor_assoc,
    BitVec.xor_self, BitVec.zero_xor, BitVec.xor_self]
  rfl

/-- R73: a changed symbol changes the state it is folded into, and no later symbol can undo that. -/
theorem compute_ne_of_one_changed (xs ys : List Symbol) {a b : Symbol} (hab : a ≠ b) :
    compute (xs ++ a :: ys) ≠ compute (xs ++ b :: ys) := by
  intro h
  rw [compute_eq, compute_eq, residue, residue, BitVec.xor_left_inj, foldAll_append, foldAll_append] at h
  exact hab (fold_right_injective _ (foldAll_injective ys h))

/-! ### Runs that fold a sequence -/

/-- The command `i` folds the symbol `v` (R62, R63). -/
def FoldsSymbol (i : Instr) (v : Symbol) : Prop :=
  ∀ s, s.ecause = 0 → exec i s = .next ((s.setC (fold s.c v)).answered 0 0 (fold s.c v))

theorem ckpfx_folds (ch : Imm) : FoldsSymbol (.ckpfx ch) (lowSymbol ch) := fun _ => exec_ckpfx_of_ready

theorem symbolImm_toNat (v : Symbol) : (symbolImm v).toNat = v.toNat := by
  have := v.isLt
  rw [symbolImm, BitVec.toNat_setWidth]
  omega

theorem lowSymbol_symbolImm (v : Symbol) : lowSymbol (symbolImm v) = v := by
  apply BitVec.eq_of_toNat_eq
  rw [lowSymbol_eq_ofNat, symbolImm_toNat, BitVec.toNat_ofNat, Nat.mod_eq_of_lt v.isLt]

theorem symbolImm_lt (v : Symbol) : (symbolImm v).toNat < 32 := by
  rw [symbolImm_toNat]
  exact v.isLt

theorem cksym_folds (v : Symbol) : FoldsSymbol (.cksym (symbolImm v)) v := fun s ready => by
  have h := exec_cksym_of_ready_fits ready (symbolImm_lt v)
  rwa [lowSymbol_symbolImm] at h

theorem ckpfxs_fold (chars : List Imm) :
    List.Forall₂ FoldsSymbol (Pseudo.expand (.ckpfxs chars)) (chars.map lowSymbol) := by
  rw [Pseudo.expand, List.forall₂_map_left_iff, List.forall₂_map_right_iff]
  exact List.forall₂_same.2 fun ch _ => ckpfx_folds ch

theorem cksyms_fold (vs : List Symbol) : List.Forall₂ FoldsSymbol (Pseudo.expand (.cksyms vs)) vs := by
  rw [Pseudo.expand, List.forall₂_map_left_iff]
  exact List.forall₂_same.2 fun v _ => cksym_folds v

theorem cksep_folds : List.Forall₂ FoldsSymbol (Pseudo.expand .cksep) [0] := .cons (cksym_folds 0) .nil

theorem ckpad8_folds : List.Forall₂ FoldsSymbol (Pseudo.expand .ckpad8) (List.replicate 8 0) :=
  cksyms_fold (List.replicate 8 0)

/-- A response given before a write to C is not seen in the registers. -/
theorem SameRegisters.of_answered {cause : BitVec 3} {cnt : BitVec 2} {data c : Word40}
    (h : SameRegisters ((s.answered cause cnt data).setC c) t) : SameRegisters (s.setC c) t :=
  ⟨h.c, h.acc, h.bits, h.ctrl, h.status⟩

/-- A run of such commands leaves the folded sequence in C and nothing else (R69). -/
theorem Completes.folds (hf : List.Forall₂ FoldsSymbol cmds vs) (ready : s.ecause = 0) :
    ∃ rs t, Completes cmds s rs t ∧ SameRegisters (s.setC (foldAll s.c vs)) t := by
  induction hf generalizing s with
  | nil => exact ⟨[], s, .nil s, .refl _⟩
  | cons hi _ ih =>
    obtain ⟨rs, t, hrun, hsame⟩ := ih (s := (s.setC (fold s.c _)).answered 0 0 (fold s.c _)) ready
    exact ⟨_, t, .cons_answered (hi s ready) rfl hrun, hsame.of_answered⟩

/-- A run up to its last command: `CKINIT m` and the symbols of the input. -/
theorem checksum_start (m : Mode) (hf : List.Forall₂ FoldsSymbol cmds vs) (ready : s.ecause = 0) :
    ∃ rs t, Completes ([.ckinit m] ++ cmds) s rs t ∧
      SameRegisters (((s.setMode m).setValid false).setC (polystate vs)) t := by
  have hinit := Completes.single (exec_ckinit_of_ready (m := m) ready) rfl
  obtain ⟨rs, t, hrun, hsame⟩ := Completes.folds hf
    (s := (((s.setMode m).setValid false).setC 1).answered 0 0 1) (by simpa using ready)
  exact ⟨_, t, hinit.append hrun, hsame.of_answered⟩

theorem checksumInput_folds (chars : List Imm) (payload : List Symbol) :
    List.Forall₂ FoldsSymbol
      (Pseudo.expand (.ckpfxs chars) ++ Pseudo.expand .cksep ++ Pseudo.expand (.cksyms payload))
      (checksumInput chars payload) :=
  List.rel_append (List.rel_append (ckpfxs_fold chars) cksep_folds) (cksyms_fold payload)

theorem checksumInput_append (chars : List Imm) (xs ys : List Symbol) :
    checksumInput chars (xs ++ ys) = checksumInput chars xs ++ ys := (List.append_assoc ..).symm

theorem addressRun_eq (m : Mode) (chars : List Imm) (payload : List Symbol) :
    addressRun m chars payload = [.ckinit m] ++ (Pseudo.expand (.ckpfxs chars) ++ Pseudo.expand .cksep ++
      Pseudo.expand (.cksyms payload)) ++ [.ckfin] := by
  simp only [addressRun, List.append_assoc]

theorem polystate_eq_one_iff : polystate vs = 1 ↔ compute vs = 0 := BitVec.xor_eq_zero_iff.symm

/-- A verify run: VALID and the last response say whether the residue of the whole input is 0 (R70). -/
theorem verifyRun (chars : List Imm) (payload : List Symbol) (ready : s.ecause = 0) :
    ∃ rs t, Completes (addressRun .verify chars payload) s rs t ∧ t.ecause = 0 ∧
      t.valid = decide (compute (checksumInput chars payload) = 0) ∧
      rs.getLast? = some ⟨0, 0, if compute (checksumInput chars payload) = 0 then 1 else 0⟩ := by
  obtain ⟨rs, t, hrun, hsame⟩ := checksum_start .verify (checksumInput_folds chars payload) ready
  have ht : t.ecause = 0 := by simpa [ready] using hsame.ecause
  have hm : t.mode = .verify := by simpa using hsame.mode
  have hc : t.c = 1 ↔ compute (checksumInput chars payload) = 0 := by rw [hsame.c]; exact polystate_eq_one_iff
  rw [addressRun_eq]
  refine ⟨_, _, hrun.append (.single (exec_ckfin_of_ready_verify ht hm) rfl), ?_, ?_, ?_⟩
  · simp [ht]
  · simp only [State.answered_valid, State.setValid_valid, hc]
  · simp only [List.getLast?_concat, hc]

/-- A compute run: C and the last response are those of the payload with eight zeros after it (R71). -/
theorem computeRun (chars : List Imm) (payload : List Symbol) (ready : s.ecause = 0) :
    ∃ rs t, Completes (addressRun .compute chars payload) s rs t ∧ t.ecause = 0 ∧
      residue t.c = compute (checksumInput chars payload ++ List.replicate 8 0) ∧
      rs.getLast? = some ⟨0, 0, compute (checksumInput chars payload ++ List.replicate 8 0)⟩ := by
  obtain ⟨rs, t, hrun, hsame⟩ := checksum_start .compute (checksumInput_folds chars payload) ready
  have ht : t.ecause = 0 := by simpa [ready] using hsame.ecause
  have hm : t.mode = .compute := by simpa using hsame.mode
  have hc : residue (foldAll t.c (List.replicate 8 0)) =
      compute (checksumInput chars payload ++ List.replicate 8 0) := by
    rw [compute_eq, foldAll_append, hsame.c]
    rfl
  rw [addressRun_eq]
  refine ⟨_, _, hrun.append (.single ((exec_ckfin_of_ready_compute ht hm).trans respond_eq) rfl), ht, hc, ?_⟩
  rw [List.getLast?_concat, hc]

end Sys2Proof.Machine

namespace Sys2Proof.Machine

/-- Settles O21: the shift and each generator pass are linear. -/
theorem foldIsLinear : Obligations.FoldIsLinear := fold_linear

/-- Settles O22: one to one, since by linearity only 0 folds to 0; and the states are finitely many. -/
theorem foldingZeroIsABijection : Obligations.FoldingZeroIsABijection :=
  Finite.injective_iff_bijective.1 (fold_left_injective 0)

/-- Settles O29: `CKINIT`, one fold per symbol, and `CKRES` on the state they leave. -/
theorem checksumRunComputesTheResidue : Obligations.ChecksumRunComputesTheResidue := by
  intro m vs s ready
  obtain ⟨rs, t, hrun, hsame⟩ := checksum_start m (cksyms_fold vs) ready
  have ht : t.ecause = 0 := by simpa [ready] using hsame.ecause
  refine ⟨_, _, hrun.append (.single (exec_ckres_of_ready ht) rfl), hsame.c, ?_, ht, hsame.acc, hsame.bits⟩
  rw [List.getLast?_concat, hsame.c]
  rfl

/-- Settles O30: the verify run. -/
theorem verifyRunDecidesTheResidue : Obligations.VerifyRunDecidesTheResidue := by
  intro chars payload s ready
  obtain ⟨rs, t, hrun, ht, hvalid, hlast⟩ := verifyRun chars payload ready
  exact ⟨rs, t, hrun, ht, by rw [hvalid, decide_eq_true_iff], hlast⟩

/-- Settles O31: the compute run leaves the padded state in C, whose digits `CKDIG` reads. -/
theorem computeRunGivesTheChecksumDigits : Obligations.ComputeRunGivesTheChecksumDigits := by
  intro chars payload s ready
  obtain ⟨rs, t, hrun, ht, hc, hlast⟩ := computeRun chars payload ready
  refine ⟨rs, t, hrun, ht, hlast, fun k => ?_⟩
  rw [← setWidth_lowFive, ← hc]
  exact exec_ckdig_of_ready ht

/-- Settles O32: the digits of the residue fold to it, so the verify run's residue is 0. -/
theorem computedDigitsMakeTheAddressVerify : Obligations.ComputedDigitsMakeTheAddressVerify := by
  intro chars payload s ready
  obtain ⟨rs, t, hrun, ht, -, hlast⟩ := computeRun chars payload ready
  refine ⟨rs, t, _, hrun, hlast, ?_⟩
  obtain ⟨rs', u, hrun', hu, hvalid, hlast'⟩ := verifyRun chars (payload ++ toDigits _) ht
  rw [checksumInput_append, compute_append_toDigits] at hvalid hlast'
  exact ⟨rs', u, hrun', by rw [hvalid]; rfl, hu, hlast'⟩

/-- Settles O33: the two inputs have different residues, so at most one verify run finds 0. -/
theorem oneChangedDigitIsAlwaysDetected : Obligations.OneChangedDigitIsAlwaysDetected := by
  refine ⟨fun xs ys a b => compute_ne_of_one_changed xs ys, fun chars xs ys a b s ready hab => ?_⟩
  obtain ⟨rs, t, hrun, -, hvalid, -⟩ := verifyRun chars (xs ++ a :: ys) ready
  obtain ⟨rs', u, hrun', hu, hvalid', hlast'⟩ := verifyRun chars (xs ++ b :: ys) ready
  refine ⟨rs, t, rs', u, hrun, hrun', fun ht => ?_⟩
  have hzero : compute (checksumInput chars (xs ++ a :: ys)) = 0 := by simpa [hvalid] using ht
  have hne : compute (checksumInput chars (xs ++ b :: ys)) ≠ 0 := by
    rw [← hzero, checksumInput_append, checksumInput_append]
    exact compute_ne_of_one_changed _ ys hab.symm
  exact ⟨by rw [hvalid', decide_eq_false hne], hu, by rw [hlast', if_neg hne]⟩

/-- Settles O34: both runs fold eight zeros into C and respond its residue. -/
theorem hostPaddingEqualsCkfin : Obligations.HostPaddingEqualsCkfin := by
  intro s ready hm
  obtain ⟨rs, t, hrun, hsame⟩ := Completes.folds ckpad8_folds ready
  have ht : t.ecause = 0 := hsame.ecause.trans ready
  refine ⟨_, _, _, _, hrun.append (.single (exec_ckres_of_ready ht) rfl),
    .single ((exec_ckfin_of_ready_compute ready hm).trans respond_eq) rfl,
    ⟨hsame.c.symm, hsame.acc.symm, hsame.bits.symm, hsame.ctrl.symm, hsame.status.symm⟩, ?_⟩
  rw [List.getLast?_concat, hsame.c]
  rfl

end Sys2Proof.Machine
end

section
/-! Base32 codec: the alphabet and its inverse (R4, R77), the words of the two commands (R43, R44), what each answers (R75, R76), and runs of them (R78). -/

namespace Sys2Proof.Machine

variable {s t : State} {v x : Symbol} {ch : Imm}

/-! ### The alphabet (R4) -/

/-- The 32 codes are different. -/
@[simp] theorem alphabetIndex?_alphabetCode (v : Symbol) : alphabetIndex? ((alphabetCode v).setWidth 12) = some v := by
  revert v; decide

theorem alphabetCode_of_alphabetIndex? (h : alphabetIndex? ch = some x) : (alphabetCode x).setWidth 12 = ch := by
  obtain ⟨n, hn, rfl⟩ := Option.map_eq_some_iff.1 h
  obtain ⟨hlt, hcode, -⟩ := List.findIdx?_eq_some_iff_getElem.1 hn
  have hn32 : n < 2 ^ 5 := hlt
  rw [alphabetCode, BitVec.toNat_ofNat, Nat.mod_eq_of_lt hn32, List.getD_eq_getElem _ _ hlt]
  exact beq_iff_eq.1 hcode

theorem alphabetIndex?_eq_none (h : ∀ v : Symbol, (alphabetCode v).setWidth 12 ≠ ch) : alphabetIndex? ch = none :=
  Option.eq_none_iff_forall_ne_some.2 fun v hv => h v (alphabetCode_of_alphabetIndex? hv)

theorem alphabetIndex?_eq_some_of_toNat (h : (alphabetCode v).toNat = ch.toNat) : alphabetIndex? ch = some v := by
  rw [← setWidth_eq_imm_iff.2 h, alphabetIndex?_alphabetCode]

/-! ### What the two commands answer a ready block, whatever else has changed -/

/-- The response of `B32ENC v`. -/
def encodedResponse (v : Symbol) : Response := ⟨0, 0, (alphabetCode v).setWidth 40⟩

/-- The response of `B32DEC` of the code of `v`. -/
def decodedResponse (v : Symbol) : Response := ⟨0, 0, v.setWidth 40⟩

theorem answers_b32enc (ready : s.ecause = 0) (v : Symbol) : Answers (.b32enc (symbolImm v)) s (encodedResponse v) := by
  intro u hu
  have h := exec_b32enc_of_ready_fits (hu.ecause.trans ready) (symbolImm_lt v)
  rwa [lowSymbol_symbolImm] at h

theorem answers_b32dec (ready : s.ecause = 0) (v : Symbol) :
    Answers (.b32dec ((alphabetCode v).setWidth 12)) s (decodedResponse v) :=
  fun _ hu => exec_b32dec_of_ready_known (hu.ecause.trans ready) (alphabetIndex?_alphabetCode v)

/-! ### Runs of the two commands (R78) -/

theorem encodeRun_completes (vs : List Symbol) (ready : s.ecause = 0) :
    ∃ t, Completes (encodeRun vs) s (vs.map encodedResponse) t ∧ SameRegisters s t :=
  Completes.map_of_answers vs fun v _ => answers_b32enc ready v

/-- The characters a host receives are those of the symbols. -/
theorem dataImms_encodedResponse (vs : List Symbol) :
    dataImms (vs.map encodedResponse) = vs.map fun v => (alphabetCode v).setWidth 12 := by
  rw [dataImms, List.map_map]
  exact List.map_congr_left fun v _ => BitVec.setWidth_setWidth_of_le _ (by decide)

theorem decodeRun_completes (vs : List Symbol) (ready : s.ecause = 0) :
    ∃ t, Completes (decodeRun (dataImms (vs.map encodedResponse))) s (vs.map decodedResponse) t ∧ SameRegisters s t := by
  rw [dataImms_encodedResponse, decodeRun, List.map_map]
  exact Completes.map_of_answers vs fun v _ => answers_b32dec ready v

theorem decodeRun_append (xs ys : List Imm) : decodeRun (xs ++ ys) = decodeRun xs ++ decodeRun ys := List.map_append

theorem decodeRun_unknown {bad : Imm} (post : List Imm) (ready : s.ecause = 0) (hbad : alphabetIndex? bad = none) :
    ∃ u, Completes (decodeRun (bad :: post)) s (List.replicate (post.length + 1) ⟨2, 0, 0⟩) u ∧ u.ecause = 2 := by
  have hgate : ∀ j ∈ decodeRun post, BehindGate j := List.forall_mem_map.2 fun _ _ => ⟨nofun, nofun, nofun⟩
  have hrun := Completes.fault_refused ready (exec_b32dec_of_ready_unknown ready hbad) hgate
  rwa [decodeRun, List.length_map] at hrun

end Sys2Proof.Machine

namespace Sys2Proof.Machine

/-- Settles O35: the halted gate, then the range check, which either looks the entry up or raises `OutOfRange`. -/
theorem b32encLooksUpTheAlphabet : Obligations.B32encLooksUpTheAlphabet := by
  refine ⟨fun imm himm => ?word, fun v s =>
    ⟨fun halted => exec_of_halted halted nofun nofun nofun, fun ready hv => ?entry, fun ready hv => ?tooLarge⟩⟩
  case word =>
    rw [wordAt_eq_commandWord himm]
    exact decode_commandWord_b32enc
  case entry =>
    have hlow : (lowSymbol v).toNat = v.toNat := by rw [lowSymbol_eq_ofNat, BitVec.toNat_ofNat, Nat.mod_eq_of_lt hv]
    rw [exec_b32enc_of_ready_fits ready hv, ← hlow]
    generalize lowSymbol v = x
    congr 2
    revert x
    decide
  case tooLarge =>
    rw [exec_b32enc_of_ready_tooLarge ready hv]
    exact raise_faults .outOfRange ready

/-- Settles O36: the halted gate, then the search of the alphabet. -/
theorem b32decInvertsTheAlphabet : Obligations.B32decInvertsTheAlphabet := by
  refine ⟨fun imm himm => ?word, fun ch s =>
    ⟨fun halted => exec_of_halted halted nofun nofun nofun, fun ready v hv => ?known, fun ready hch => ?unknown⟩⟩
  case word =>
    rw [wordAt_eq_commandWord himm]
    exact decode_commandWord_b32dec
  case known =>
    rw [BitVec.ofNat_toNat]
    exact exec_b32dec_of_ready_known ready (alphabetIndex?_eq_some_of_toNat hv)
  case unknown =>
    rw [exec_b32dec_of_ready_unknown ready (alphabetIndex?_eq_none fun v hv => hch v (setWidth_eq_imm_iff.1 hv))]
    exact raise_faults .unknownSymbol ready

/-- Settles O37: the code of each index is found at that index, and a found index has the code that was searched. -/
theorem b32CommandsAreInverse : Obligations.B32CommandsAreInverse := by
  refine fun s ready => ⟨fun v => ⟨alphabetCode v, answers_b32enc ready v s (.refl s), answers_b32dec ready v s (.refl s)⟩,
    fun ch t h ht => ?_⟩
  cases hx : alphabetIndex? ch with
  | none =>
    rw [exec_b32dec_of_ready_unknown ready hx, raise_of_ready ready] at h
    cases h
    exact absurd ((State.setEcause_ecause s _).symm.trans ht) (Cause.code_ne_zero _)
  | some v =>
    rw [exec_b32dec_of_ready_known ready hx] at h
    cases h
    refine ⟨v, rfl, ?_⟩
    rw [← alphabetCode_of_alphabetIndex? hx, BitVec.setWidth_setWidth (by decide)]
    exact answers_b32enc ready v s (.refl s)

/-- Settles O38: both runs only answer, until the first unknown character faults and the rest is refused. -/
theorem decodingStopsAtTheFirstUnknownCharacter : Obligations.DecodingStopsAtTheFirstUnknownCharacter := by
  intro vs s ready
  obtain ⟨t, hrun, hsame⟩ := encodeRun_completes vs ready
  obtain ⟨u, hback, hsame'⟩ := decodeRun_completes vs (hsame.ecause.trans ready)
  refine ⟨_, t, hrun, hsame, ⟨u, hback, hsame'⟩, fun bad post hbad => ?_⟩
  obtain ⟨u', htail, hu'⟩ := decodeRun_unknown post (hsame'.ecause.trans (hsame.ecause.trans ready))
    (alphabetIndex?_eq_none hbad)
  exact ⟨u', decodeRun_append .. ▸ hback.append htail, hu'⟩

end Sys2Proof.Machine
end

section
/-! Reading and writing across the block's units: the checksum and base32 commands and those of the converter do not disturb each other (R35), and the reading commands leave no trace (R31). -/

namespace Sys2Proof.Machine

variable {s t u : State} {i j : Instr}

/-! ### The units of the block (R35) -/

/-- The checksum engine and the base32 codec, the converter, and the commands outside both. -/
inductive BlockUnit
  | system
  | symbols
  | converter

/-- The unit a command belongs to. -/
def unitOf : Instr → BlockUnit
  | .nop | .rdreg _ | .clrerr => .system
  | .ckinit _ | .cksym _ | .ckpfx _ | .ckfin | .ckres | .ckdig _ | .b32enc _ | .b32dec _ => .symbols
  | .cvstart _ _ | .cvpush _ | .cvflush => .converter

/-- The fields the symbol commands read and write. -/
structure SameSymbolFields (s t : State) : Prop where
  c : t.c = s.c
  mode : t.mode = s.mode
  valid : t.valid = s.valid

/-- The fields the converter reads and writes. -/
structure SameConverterFields (s t : State) : Prop where
  acc : t.acc = s.acc
  bits : t.bits = s.bits
  dir : t.dir = s.dir
  strictness : t.strictness = s.strictness

theorem SameSymbolFields.symm (h : SameSymbolFields s t) : SameSymbolFields t s := ⟨h.c.symm, h.mode.symm, h.valid.symm⟩

theorem SameConverterFields.symm (h : SameConverterFields s t) : SameConverterFields t s :=
  ⟨h.acc.symm, h.bits.symm, h.dir.symm, h.strictness.symm⟩

theorem SameSymbolFields.emit (s : State) (r : Response) : SameSymbolFields s (s.emit r) := ⟨rfl, rfl, rfl⟩

theorem SameConverterFields.emit (s : State) (r : Response) : SameConverterFields s (s.emit r) := ⟨rfl, rfl, rfl, rfl⟩

theorem SameSymbolFields.trans (h : SameSymbolFields s t) (h' : SameSymbolFields t u) : SameSymbolFields s u :=
  ⟨h'.c.trans h.c, h'.mode.trans h.mode, h'.valid.trans h.valid⟩

theorem SameConverterFields.trans (h : SameConverterFields s t) (h' : SameConverterFields t u) : SameConverterFields s u :=
  ⟨h'.acc.trans h.acc, h'.bits.trans h.bits, h'.dir.trans h.dir, h'.strictness.trans h.strictness⟩

theorem SameRegisters.of_units (hc : SameSymbolFields s t) (hv : SameConverterFields s t) (he : t.ecause = s.ecause) :
    SameRegisters s t :=
  .of_fields hc.c hv.acc hv.bits hc.mode hv.dir hv.strictness hc.valid he

theorem written_symbols_keeps_converter (hi : unitOf i = .symbols) : SameConverterFields s (written i s) := by
  have hbuffer := mt (written_buffer (i := i) (s := s)) (by rintro (⟨_, _, rfl⟩ | ⟨_, rfl⟩ | rfl) <;> cases hi)
  have hconv := mt (written_conversion (i := i) (s := s)) (by intro h; rw [h] at hi; cases hi)
  obtain ⟨hacc, hbits⟩ := not_or.1 hbuffer
  obtain ⟨hdir, hstrict⟩ := not_or.1 hconv
  exact ⟨not_not.1 hacc, not_not.1 hbits, not_not.1 hdir, not_not.1 hstrict⟩

theorem written_converter_keeps_symbols (hj : unitOf j = .converter) : SameSymbolFields s (written j s) := by
  have hc := mt (written_c (i := j) (s := s)) (by
    rintro (⟨_, rfl⟩ | ⟨_, rfl⟩ | ⟨_, rfl⟩ | ⟨rfl, -⟩) <;> cases hj)
  have hmode := mt (written_mode (i := j) (s := s)) (by intro h; rw [h] at hj; cases hj)
  have hvalid := mt (written_valid (i := j) (s := s)) (by rintro (⟨_, rfl⟩ | ⟨rfl, -⟩) <;> cases hj)
  exact ⟨not_not.1 hc, not_not.1 hmode, not_not.1 hvalid⟩

theorem written_ecause_of_unit (hi : unitOf i ≠ .system) : (written i s).ecause = s.ecause :=
  written_ecause (by rintro rfl; exact hi rfl)

/-- What a symbol command writes of its unit's fields it computes from them. -/
theorem SameSymbolFields.of_written (h : SameSymbolFields s u) (hi : unitOf i = .symbols) :
    SameSymbolFields (written i s) (written i u) := by
  cases i with
  | nop | rdreg _ | clrerr | cvstart _ _ | cvpush _ | cvflush => cases hi
  | ckinit m => exact ⟨rfl, by simp [written], by simp [written]⟩
  | cksym v => exact ⟨congrArg (fold · (lowSymbol v)) h.c, h.mode, h.valid⟩
  | ckpfx ch => exact ⟨congrArg (fold · (lowSymbol ch)) h.c, h.mode, h.valid⟩
  | ckfin =>
    cases hm : s.mode with
    | compute =>
      rw [written_ckfin_compute hm, written_ckfin_compute (h.mode.trans hm)]
      exact ⟨congrArg (foldAll · _) h.c, h.mode, h.valid⟩
    | verify =>
      rw [written_ckfin_verify hm, written_ckfin_verify (h.mode.trans hm)]
      exact ⟨h.c, h.mode, by simp [h.c]⟩
  | ckres | ckdig _ | b32enc _ | b32dec _ => exact h

theorem bufferOk_of_sameConverterFields (h : SameConverterFields s u) : u.bufferOk = s.bufferOk :=
  Bool.eq_iff_iff.2 (by rw [bufferOk_iff, bufferOk_iff, h.acc, h.bits, h.dir])

theorem pushEffect_of_sameConverterFields (v : Imm) (h : SameConverterFields s u) : pushEffect u v = pushEffect s v := by
  rw [pushEffect, pushEffect, bufferOk_of_sameConverterFields h, h.acc, h.bits, h.dir]

theorem flushPad_of_sameConverterFields (h : SameConverterFields s u) : flushPad u = flushPad s := by
  rw [flushPad, flushPad, bufferOk_of_sameConverterFields h, h.acc, h.bits, h.dir]

theorem SameConverterFields.of_written (h : SameConverterFields s u) (hj : unitOf j = .converter) :
    SameConverterFields (written j s) (written j u) := by
  cases j with
  | cvstart d st => exact ⟨rfl, rfl, by simp [written], by simp [written]⟩
  | cvpush v =>
    have heff := pushEffect_of_sameConverterFields v h
    exact ⟨congrArg PushEffect.acc heff, congrArg PushEffect.bits heff, h.dir, h.strictness⟩
  | cvflush => exact ⟨rfl, rfl, h.dir, h.strictness⟩
  | nop | rdreg _ | clrerr | ckinit _ | cksym _ | ckpfx _ | ckfin | ckres | ckdig _ | b32enc _ | b32dec _ => cases hj

/-- A fault changes ECAUSE, so a command that leaves it alone did not fault. -/
theorem not_raise_of_ecause_eq {k : Cause} (ready : s.ecause = 0) (h : raise k s = .next t) : t.ecause ≠ 0 := by
  rw [raise_of_ready ready] at h
  cases h
  rw [State.answered_ecause, State.setEcause_ecause]
  exact k.code_ne_zero

/-- A symbol command that does not fault gives the same response in every ready state with the same fields of its unit. -/
theorem exec_symbols_response (hi : unitOf i = .symbols) (ready : s.ecause = 0) (h : exec i s = .next t)
    (ht : t.ecause = 0) : ∃ r, ∀ u, u.ecause = 0 → SameSymbolFields s u → exec i u = .next ((written i u).emit r) := by
  cases i with
  | nop | rdreg _ | clrerr | cvstart _ _ | cvpush _ | cvflush => cases hi
  | ckinit m => exact ⟨_, fun u hu _ => exec_ckinit_of_ready hu⟩
  | cksym v =>
    obtain hv | hv := lt_or_ge v.toNat 32
    · exact ⟨⟨0, 0, fold s.c (lowSymbol v)⟩, fun u hu hsame => by rw [← hsame.c]; exact exec_cksym_of_ready_fits hu hv⟩
    · rw [exec_cksym_of_ready_tooLarge ready hv] at h
      exact absurd ht (not_raise_of_ecause_eq ready h)
  | ckpfx ch =>
    exact ⟨⟨0, 0, fold s.c (lowSymbol ch)⟩, fun u hu hsame => by rw [← hsame.c]; exact exec_ckpfx_of_ready hu⟩
  | ckfin =>
    cases hm : s.mode with
    | compute =>
      refine ⟨⟨0, 0, residue (foldAll s.c (List.replicate 8 0))⟩, fun u hu hsame => ?_⟩
      rw [← hsame.c, written_ckfin_compute (hsame.mode.trans hm)]
      exact exec_ckfin_of_ready_compute hu (hsame.mode.trans hm)
    | verify =>
      refine ⟨⟨0, 0, if s.c = 1 then 1 else 0⟩, fun u hu hsame => ?_⟩
      rw [← hsame.c, written_ckfin_verify (hsame.mode.trans hm)]
      exact exec_ckfin_of_ready_verify hu (hsame.mode.trans hm)
  | ckres => exact ⟨⟨0, 0, residue s.c⟩, fun u hu hsame => by rw [← hsame.c]; exact exec_ckres_of_ready hu⟩
  | ckdig k =>
    exact ⟨⟨0, 0, (residueDigit (residue s.c) k).setWidth 40⟩, fun u hu hsame => by
      rw [← hsame.c]; exact exec_ckdig_of_ready hu⟩
  | b32enc v =>
    obtain hv | hv := lt_or_ge v.toNat 32
    · exact ⟨_, fun u hu _ => exec_b32enc_of_ready_fits hu hv⟩
    · rw [exec_b32enc_of_ready_tooLarge ready hv] at h
      exact absurd ht (not_raise_of_ecause_eq ready h)
  | b32dec ch =>
    cases hx : alphabetIndex? ch with
    | some x => exact ⟨_, fun u hu _ => exec_b32dec_of_ready_known hu hx⟩
    | none =>
      rw [exec_b32dec_of_ready_unknown ready hx] at h
      exact absurd ht (not_raise_of_ecause_eq ready h)

/-- So does a converter command. -/
theorem exec_converter_response (hj : unitOf j = .converter) (ready : s.ecause = 0) (h : exec j s = .next t)
    (ht : t.ecause = 0) : ∃ r, ∀ u, u.ecause = 0 → SameConverterFields s u → exec j u = .next ((written j u).emit r) := by
  cases j with
  | nop | rdreg _ | clrerr | ckinit _ | cksym _ | ckpfx _ | ckfin | ckres | ckdig _ | b32enc _ | b32dec _ => cases hj
  | cvstart d st => exact ⟨_, fun u hu _ => exec_cvstart_of_ready hu⟩
  | cvpush v =>
    obtain hv | hv := lt_or_ge v.toNat (2 ^ fromWidth s.dir)
    · refine ⟨⟨0, (pushEffect s v).cnt, (pushEffect s v).data⟩, fun u hu hsame => ?_⟩
      rw [← hsame.dir] at hv
      rw [← pushEffect_of_sameConverterFields v hsame]
      exact exec_cvpush_of_ready_fits hu hv
    · rw [exec_cvpush_of_ready_tooLarge ready hv] at h
      exact absurd ht (not_raise_of_ecause_eq ready h)
  | cvflush =>
    cases hst : s.strictness with
    | loose =>
      obtain ⟨outs, houts⟩ : ∃ outs, outs = if 0 < s.bits.toNat then [flushPad s] else [] := ⟨_, rfl⟩
      refine ⟨⟨0, BitVec.ofNat 2 outs.length, lanes outs⟩, fun u hu hsame => ?_⟩
      rw [exec_cvflush_of_ready_loose hu (hsame.strictness.trans hst), hsame.bits,
        flushPad_of_sameConverterFields hsame, ← houts]
      rfl
    | strict =>
      rw [exec_cvflush_of_ready_strict ready hst] at h
      split at h
      case isFalse => exact absurd ht (not_raise_of_ecause_eq ready h)
      case isTrue hpad =>
        refine ⟨⟨0, 0, lanes []⟩, fun u hu hsame => ?_⟩
        rw [exec_cvflush_of_ready_strict hu (hsame.strictness.trans hst), hsame.bits, hsame.dir,
          flushPad_of_sameConverterFields hsame, if_pos hpad]
        rfl

/-- Two commands whose responses are known run one after the other. -/
theorem Completes.pair {r r' : Response} (hi : exec i s = .next ((written i s).emit r))
    (hj : exec j ((written i s).emit r) = .next ((written j ((written i s).emit r)).emit r')) :
    Completes [i, j] s [r, r'] ((written j ((written i s).emit r)).emit r') :=
  .cons_answered hi written_responses (.single hj written_responses)

/-! ### Reading commands (R31) -/

/-- The commands that only read. -/
inductive Reads : Instr → Prop
  | nop : Reads .nop
  | rdreg (r : Reg) : Reads (.rdreg r)
  | ckres : Reads .ckres
  | ckdig (k : BitVec 3) : Reads (.ckdig k)
  | b32enc (v : Imm) : Reads (.b32enc v)
  | b32dec (ch : Imm) : Reads (.b32dec ch)

theorem readReg_of_sameRegisters (r : Reg) (h : SameRegisters s t) : readReg r t = readReg r s := by
  cases r with
  | c => exact h.c
  | acc => exact congrArg (BitVec.setWidth 40) h.acc
  | bits => exact congrArg (BitVec.setWidth 40) h.bits
  | ctrl => exact congrArg (BitVec.setWidth 40) h.ctrl
  | status => exact congrArg (BitVec.setWidth 40) h.status

theorem behindGate_of_symbols (hi : unitOf i = .symbols) : BehindGate i :=
  ⟨(by rintro rfl; cases hi), (by rintro rfl; cases hi), (by rintro r rfl; cases hi)⟩

/-- A symbol command that writes nothing, unless it faults, answers from the registers alone. -/
theorem answers_of_symbols (hi : unitOf i = .symbols) (hw : ∀ u, written i u = u) (h : exec i s = .next t)
    (ht : t.ecause = s.ecause) : ∃ r, Answers i s r := by
  by_cases ready : s.ecause = 0
  · obtain ⟨r, hr⟩ := exec_symbols_response hi ready h (ht.trans ready)
    exact ⟨r, fun u hu => by rw [hr u (hu.ecause.trans ready) ⟨hu.c, hu.mode, hu.valid⟩, hw]⟩
  · exact ⟨_, answers_of_halted rfl ready (behindGate_of_symbols hi)⟩

theorem Reads.answers (hi : Reads i) (h : exec i s = .next t) (ht : t.ecause = s.ecause) : ∃ r, Answers i s r := by
  cases hi with
  | nop => exact ⟨⟨0, 0, 0⟩, fun u _ => exec_nop⟩
  | rdreg r => exact ⟨⟨0, 0, readReg r s⟩, fun u hu => by rw [← readReg_of_sameRegisters r hu]; exact exec_rdreg⟩
  | ckres => exact answers_of_symbols rfl (fun _ => rfl) h ht
  | ckdig k => exact answers_of_symbols rfl (fun _ => rfl) h ht
  | b32enc v => exact answers_of_symbols rfl (fun _ => rfl) h ht
  | b32dec ch => exact answers_of_symbols rfl (fun _ => rfl) h ht

/-- A command that only answers can be given twice. -/
theorem Answers.twice {r : Response} (hans : Answers i s r) (h : exec i s = .next t) :
    SameRegisters s t ∧ ∃ u r, exec i t = .next u ∧ SameRegisters t u ∧
      t.responses = s.responses ++ [r] ∧ u.responses = t.responses ++ [r] := by
  have hst := hans s (.refl s)
  obtain rfl : s.emit r = t := by simpa [h, eq_comm] using hst
  have hsame : SameRegisters s (s.emit r) := .answered ..
  exact ⟨hsame, _, r, hans _ hsame, .answered .., rfl, rfl⟩

/-- The verify flag set twice is the same flag: `CKFIN` in VERIFY mode does not read it (R64). -/
theorem ckfin_verify_twice (hm : s.mode = .verify) (h : exec .ckfin s = .next t) :
    ∃ u r, exec .ckfin t = .next u ∧ SameRegisters t u ∧
      t.responses = s.responses ++ [r] ∧ u.responses = t.responses ++ [r] := by
  by_cases ready : s.ecause = 0
  · rw [exec_ckfin_of_ready_verify ready hm] at h
    cases h
    refine ⟨_, _, exec_ckfin_of_ready_verify (by simpa using ready) hm, ?_, rfl, rfl⟩
    apply SameRegisters.of_fields <;> simp
  · exact ((answers_of_halted rfl ready (behindGate_of_symbols rfl)).twice h).2

end Sys2Proof.Machine

namespace Sys2Proof.Machine

/-- Settles O50: a reading command only answers, from the registers; `CKFIN` in VERIFY mode sets the flag it would set again. -/
theorem readingCommandsHaveNoSideEffects : Obligations.ReadingCommandsHaveNoSideEffects := by
  rintro i s t (hreads | ⟨rfl, hm⟩) h ht
  · have hi : Reads i := by
      obtain rfl | ⟨r, rfl⟩ | rfl | ⟨k, rfl⟩ | ⟨v, rfl⟩ | ⟨ch, rfl⟩ := hreads
      · exact .nop
      · exact .rdreg r
      · exact .ckres
      · exact .ckdig k
      · exact .b32enc v
      · exact .b32dec ch
    obtain ⟨r, hans⟩ := hi.answers h ht
    obtain ⟨hsame, htwice⟩ := hans.twice h
    exact ⟨fun _ => hsame, htwice⟩
  · exact ⟨fun hne => absurd rfl hne, ckfin_verify_twice hm h⟩

/-- Settles O51: each command reads and writes its own unit's fields, so the other's changes leave its response and its writes the same. -/
theorem unitsDoNotDisturbEachOther : Obligations.UnitsDoNotDisturbEachOther := by
  rintro i j s s₁ s₂ ready ⟨m, v, k, hi⟩ ⟨d, st, v', hj⟩ hexec hs₁ hexec' hs₂
  have hi : unitOf i = .symbols := by fin_cases hi <;> rfl
  have hj : unitOf j = .converter := by fin_cases hj <;> rfl
  obtain ⟨r, hr⟩ := exec_symbols_response hi ready hexec hs₁
  obtain ⟨r', hr'⟩ := exec_converter_response hj ready hexec' hs₂
  have hei (u : State) : ((written i u).emit r).ecause = u.ecause := written_ecause_of_unit (by rw [hi]; nofun)
  have hej (u : State) : ((written j u).emit r').ecause = u.ecause := written_ecause_of_unit (by rw [hj]; nofun)
  have hi_conv (u : State) : SameConverterFields u ((written i u).emit r) :=
    (written_symbols_keeps_converter hi).trans (.emit ..)
  have hj_symb (u : State) : SameSymbolFields u ((written j u).emit r') :=
    (written_converter_keeps_symbols hj).trans (.emit ..)
  refine ⟨r, r', _, _,
    .pair (hr s ready ⟨rfl, rfl, rfl⟩) (hr' _ ((hei s).trans ready) (hi_conv s)),
    .pair (hr' s ready ⟨rfl, rfl, rfl, rfl⟩) (hr _ ((hej s).trans ready) (hj_symb s)), .of_units ?symbols ?converter ?ecause⟩
  case symbols =>
    have hij : SameSymbolFields (written i s) ((written j ((written i s).emit r)).emit r') :=
      (SameSymbolFields.emit _ r).trans (hj_symb _)
    exact hij.symm.trans (((hj_symb s).of_written hi).trans (.emit ..))
  case converter =>
    have hji : SameConverterFields (written j s) ((written i ((written j s).emit r')).emit r) :=
      (SameConverterFields.emit _ r').trans (hi_conv _)
    exact (((hi_conv s).of_written hj).trans (.emit ..)).symm.trans hji
  case ecause => rw [hei, hej, hej, hei]

end Sys2Proof.Machine
end

section
/-! Bit-width conversion: numbers and bit strings (R26), the buffer as the bit string it holds (R84), whole conversion runs (R86, R87), and the round trips of R88 and R99. -/

namespace Sys2Proof.Machine

variable {s t u : State} {d : Dir} {st : Strictness} {tw : Nat} {v : Imm} {bs cs : List Bool} {xs : List Nat}

/-! ### Numbers and bit strings (R26) -/

theorem valueOf_replicate_false (n : Nat) : valueOf (List.replicate n false) = 0 := by
  induction n with
  | zero => rfl
  | succ n ih => rw [List.replicate_succ, valueOf_cons, ih]; simp

theorem valueOf_eq_zero_iff : valueOf bs = 0 ↔ bs.all (· == false) = true := by
  induction bs with
  | nil => simp [valueOf]
  | cons b bs ih =>
    rw [valueOf_cons, Nat.add_eq_zero_iff, ih, List.all_cons, Bool.and_eq_true]
    cases b <;> simp

/-- Bit strings of one length that stand for the same number are the same. -/
theorem eq_of_valueOf_eq (hlen : bs.length = cs.length) (h : valueOf bs = valueOf cs) : bs = cs := by
  induction bs generalizing cs with
  | nil => exact (List.length_eq_zero_iff.1 hlen.symm).symm
  | cons b bs ih =>
    obtain _ | ⟨c, cs⟩ := cs
    · cases hlen
    have hlen' : bs.length = cs.length := Nat.succ.inj hlen
    have hb := valueOf_lt bs
    have hc := valueOf_lt cs
    rw [valueOf_cons, valueOf_cons, ← hlen'] at h
    rw [← hlen'] at hc
    cases b <;> cases c <;> simp only [Bool.toNat_true, Bool.toNat_false, one_mul, zero_mul] at h
    · rw [ih hlen' (by omega)]
    · omega
    · omega
    · rw [ih hlen' (by omega)]

/-- Reading a bit string and writing it back (R26). -/
theorem bitsOf_valueOf (bs : List Bool) : bitsOf bs.length (valueOf bs) = bs := by
  refine eq_of_valueOf_eq (bitsOf_length ..) ?_
  rw [valueOf_bitsOf, Nat.mod_eq_of_lt (valueOf_lt bs)]

theorem bitstream_cons (w x : Nat) (xs : List Nat) : bitstream w (x :: xs) = bitsOf w x ++ bitstream w xs :=
  List.flatMap_cons

theorem bitstream_length (w : Nat) (xs : List Nat) : (bitstream w xs).length = w * xs.length := by
  induction xs with
  | nil => rfl
  | cons x xs ih => rw [bitstream_cons, List.length_append, bitsOf_length, ih, List.length_cons, Nat.mul_succ, Nat.add_comm]

theorem wholeDigits_length (tw : Nat) (bs : List Bool) : (wholeDigits tw bs).length = bs.length / tw := by
  simp [wholeDigits]

theorem wholeDigits_lt {x : Nat} (h : x ∈ wholeDigits tw bs) : x < 2 ^ tw := by
  obtain ⟨i, -, rfl⟩ := List.mem_map.1 h
  exact (valueOf_lt _).trans_le (Nat.pow_le_pow_right two_pos (List.length_take_le ..))

theorem leftoverBits_length_lt (h0 : 0 < tw) (bs : List Bool) : (leftoverBits tw bs).length < tw := by
  rw [leftoverBits_length]
  exact Nat.mod_lt _ h0

/-- The digits of a bit string that has no leftover are the whole of it. -/
theorem bitstream_wholeDigits (h0 : 0 < tw) (n : Nat) (hlen : bs.length = tw * n) :
    bitstream tw (wholeDigits tw bs) = bs := by
  induction n generalizing bs with
  | zero =>
    obtain rfl : bs = [] := List.length_eq_zero_iff.1 hlen
    rw [wholeDigits_nil]
    rfl
  | succ n ih =>
    have hle : tw ≤ bs.length := by rw [hlen, Nat.mul_succ]; omega
    have htake : bitsOf tw (valueOf (bs.take tw)) = bs.take tw := by
      have h := bitsOf_valueOf (bs.take tw)
      rwa [List.length_take_of_le hle] at h
    rw [wholeDigits_step h0 hle, bitstream_cons, htake, ih (by rw [List.length_drop, hlen, Nat.mul_succ]; omega),
      List.take_append_drop]

/-- Values written as bits are read back as the whole digits, whatever incomplete digit comes after them. -/
theorem digits_bitstream_append {zs : List Bool} (hxs : ∀ x ∈ xs, x < 2 ^ tw) (hzs : zs.length < tw) :
    wholeDigits tw (bitstream tw xs ++ zs) = xs ∧ leftoverBits tw (bitstream tw xs ++ zs) = zs := by
  have h0 : 0 < tw := Nat.zero_lt_of_lt hzs
  induction xs with
  | nil => exact ⟨wholeDigits_of_short hzs, leftoverBits_of_short hzs⟩
  | cons x xs ih =>
    obtain ⟨hx, hxs⟩ := List.forall_mem_cons.1 hxs
    have hlen : (bitsOf tw x).length = tw := bitsOf_length ..
    have hle : tw ≤ (bitsOf tw x ++ (bitstream tw xs ++ zs)).length := by rw [List.length_append, hlen]; omega
    have hvalue : valueOf (bitsOf tw x) = x := by rw [valueOf_bitsOf, Nat.mod_eq_of_lt hx]
    obtain ⟨hdigits, hleft⟩ := ih hxs
    rw [bitstream_cons, List.append_assoc, wholeDigits_step h0 hle, leftoverBits_step h0 hle, List.take_left' hlen,
      List.drop_left' hlen, hdigits, hleft, hvalue]
    exact ⟨rfl, rfl⟩

/-! ### The lanes of a response, read back (R41) -/

theorem lowLane_ofNat (n : Nat) : ((BitVec.ofNat 40 n).extractLsb' 0 8).toNat = n % 256 := by
  simp only [BitVec.extractLsb'_toNat, BitVec.toNat_ofNat, Nat.shiftRight_zero]
  omega

theorem highLane_ofNat (n : Nat) : ((BitVec.ofNat 40 n).extractLsb' 8 8).toNat = n / 256 % 256 := by
  simp only [BitVec.extractLsb'_toNat, BitVec.toNat_ofNat, Nat.shiftRight_eq_div_pow]
  omega

/-- Up to two outputs, each of at most a lane's width, come back from the response they are put into. -/
theorem outputs_lanes {outs : List Nat} (hlen : outs.length ≤ 2) (hlt : ∀ x ∈ outs, x < 256) :
    Response.outputs ⟨0, BitVec.ofNat 2 outs.length, lanes outs⟩ = outs := by
  match outs, hlen with
  | [], _ => rfl
  | [a], _ =>
    have ha : a < 256 := hlt a List.mem_cons_self
    have hlow : ((lanes [a]).extractLsb' 0 8).toNat = a := by rw [lanes_singleton, lowLane_ofNat, Nat.mod_eq_of_lt ha]
    exact congrArg (fun x => [x]) hlow
  | [a, b], _ =>
    have ha : a < 256 := hlt a List.mem_cons_self
    have hb : b < 256 := hlt b (List.mem_cons_of_mem a List.mem_cons_self)
    have hlow : ((lanes [a, b]).extractLsb' 0 8).toNat = a := by rw [lanes_pair ha, lowLane_ofNat]; omega
    have hhigh : ((lanes [a, b]).extractLsb' 8 8).toNat = b := by rw [lanes_pair ha, highLane_ofNat]; omega
    exact congrArg₂ (fun x y => [x, y]) hlow hhigh

/-! ### The buffer holds a bit string (R84) -/

/-- ACC and BITS hold the bit string `bs`, too short for an output. -/
structure Holds (bs : List Bool) (s : State) : Prop where
  acc : s.acc.toNat = valueOf bs
  bits : s.bits.toNat = bs.length
  short : bs.length < toWidth s.dir

theorem Holds.acc_lt (h : Holds bs s) : s.acc.toNat < 2 ^ s.bits.toNat := by
  rw [h.acc, h.bits]
  exact valueOf_lt bs

theorem Holds.bits_lt (h : Holds bs s) : s.bits.toNat < toWidth s.dir := by
  rw [h.bits]
  exact h.short

/-- What a push writes and returns, on the bit string it makes of the buffer. -/
theorem Holds.pushEffect_eq (h : Holds bs s) (hv : v.toNat < 2 ^ fromWidth s.dir) :
    let cs := bs ++ bitsOf (fromWidth s.dir) v.toNat
    let outs := wholeDigits (toWidth s.dir) cs
    let rest := leftoverBits (toWidth s.dir) cs
    pushEffect s v =
      ⟨BitVec.ofNat 13 (valueOf rest), BitVec.ofNat 4 rest.length, BitVec.ofNat 2 outs.length, lanes outs⟩ := by
  intro cs outs rest
  have hlen : cs.length = s.bits.toNat + fromWidth s.dir := by rw [List.length_append, bitsOf_length, h.bits]
  have hvalue : valueOf cs = s.acc.toNat * 2 ^ fromWidth s.dir + v.toNat := by
    rw [valueOf_append, bitsOf_length, valueOf_bitsOf, Nat.mod_eq_of_lt hv, h.acc]
  have hloop : pushEmission s.dir s.acc.toNat s.bits.toNat v.toNat = ⟨outs, valueOf rest, rest.length⟩ := by
    rw [pushEmission_eq_emitLoop hv, ← hlen, ← hvalue]
    exact emitLoop_eq (toWidth_pos s.dir) _ cs le_rfl
  rw [pushEffect, if_pos (bufferOk_iff.2 ⟨h.bits_lt, h.acc_lt⟩)]
  simp only [pushByRule, hloop]

/-- A push emits the whole digits of the longer bit string and leaves the rest of it in the buffer. -/
theorem Holds.push (h : Holds bs s) (ready : s.ecause = 0) (hv : v.toNat < 2 ^ fromWidth s.dir) :
    ∃ r : Response, exec (.cvpush v) s = .next ((written (.cvpush v) s).emit r) ∧ r.cause = 0 ∧
      r.outputs = wholeDigits (toWidth s.dir) (bs ++ bitsOf (fromWidth s.dir) v.toNat) ∧
      Holds (leftoverBits (toWidth s.dir) (bs ++ bitsOf (fromWidth s.dir) v.toNat)) (written (.cvpush v) s) := by
  have heff := h.pushEffect_eq hv
  have hexec := exec_cvpush_of_ready_fits ready hv
  have htw := toWidth_le_eight s.dir
  have hshort := leftoverBits_length_lt (toWidth_pos s.dir) (bs ++ bitsOf (fromWidth s.dir) v.toNat)
  have hrest := valueOf_lt (leftoverBits (toWidth s.dir) (bs ++ bitsOf (fromWidth s.dir) v.toNat))
  refine ⟨_, hexec, rfl, ?outputs, ?acc, ?bits, hshort⟩
  case outputs =>
    rw [heff]
    refine outputs_lanes ?_ fun x hx =>
      (wholeDigits_lt hx).trans_le (Nat.pow_le_pow_right two_pos htw)
    rw [wholeDigits_length, List.length_append, bitsOf_length]
    exact outputs_per_push_le_two h.short
  case acc =>
    have hpow : 2 ^ (leftoverBits (toWidth s.dir) (bs ++ bitsOf (fromWidth s.dir) v.toNat)).length ≤ 2 ^ 13 :=
      Nat.pow_le_pow_right two_pos (by omega)
    rw [written, State.setBits_acc, State.setAcc_acc, heff]
    exact Nat.mod_eq_of_lt (hrest.trans_le hpow)
  case bits =>
    rw [written, State.setBits_bits, heff]
    exact Nat.mod_eq_of_lt (by omega)

/-! ### Pushing a sequence -/

/-- A run wrote no register but ACC and BITS. -/
structure OnlyBufferWritten (s t : State) : Prop where
  c : t.c = s.c
  ctrl : t.ctrl = s.ctrl
  status : t.status = s.status

theorem OnlyBufferWritten.sameRegisters (h : OnlyBufferWritten s t) :
    SameRegisters ((s.setAcc t.acc).setBits t.bits) t := ⟨h.c, rfl, rfl, h.ctrl, h.status⟩

theorem OnlyBufferWritten.mode (h : OnlyBufferWritten s t) : t.mode = s.mode := h.sameRegisters.mode

theorem OnlyBufferWritten.dir (h : OnlyBufferWritten s t) : t.dir = s.dir := h.sameRegisters.dir

theorem OnlyBufferWritten.strictness (h : OnlyBufferWritten s t) : t.strictness = s.strictness := h.sameRegisters.strictness

theorem OnlyBufferWritten.ecause (h : OnlyBufferWritten s t) : t.ecause = s.ecause := h.sameRegisters.ecause

theorem OnlyBufferWritten.valid (h : OnlyBufferWritten s t) : t.valid = s.valid := h.sameRegisters.valid

theorem outputsOf_cons (r : Response) (rs : List Response) : outputsOf (r :: rs) = r.outputs ++ outputsOf rs :=
  List.flatMap_cons

theorem outputsOf_append (rs rs' : List Response) : outputsOf (rs ++ rs') = outputsOf rs ++ outputsOf rs' :=
  List.flatMap_append

/-- Pushes emit the whole digits of all the bits and leave the rest (R86). -/
theorem Completes.pushes (xs : List Imm) (h : Holds bs s) (ready : s.ecause = 0)
    (hxs : ∀ x ∈ xs, x.toNat < 2 ^ fromWidth s.dir) :
    ∃ rs t, Completes (Pseudo.expand (.cvpushs xs)) s rs t ∧ (∀ r ∈ rs, r.cause = 0) ∧
      outputsOf rs = wholeDigits (toWidth s.dir) (bs ++ bitstream (fromWidth s.dir) (xs.map BitVec.toNat)) ∧
      Holds (leftoverBits (toWidth s.dir) (bs ++ bitstream (fromWidth s.dir) (xs.map BitVec.toNat))) t ∧
      OnlyBufferWritten s t := by
  induction xs generalizing s bs with
  | nil =>
    refine ⟨[], s, .nil s, nofun, ?_, ?_, ⟨rfl, rfl, rfl⟩⟩
    · exact (wholeDigits_of_short (by simpa [bitstream] using h.short)).symm
    · rwa [leftoverBits_of_short (by simpa [bitstream] using h.short), List.map_nil, bitstream, List.flatMap_nil,
        List.append_nil]
  | cons x xs ih =>
    obtain ⟨hx, hxs⟩ := List.forall_mem_cons.1 hxs
    obtain ⟨r, hexec, hcause, houts, hholds⟩ := h.push ready hx
    obtain ⟨rs, t, hrun, hcauses, houts', hholds', hframe⟩ :=
      ih (s := (written (.cvpush x) s).emit r) ⟨hholds.acc, hholds.bits, hholds.short⟩ ready hxs
    obtain ⟨hdigits, hleft⟩ := wholeDigits_append (toWidth_pos s.dir) (bitstream (fromWidth s.dir) (xs.map BitVec.toNat)) _
      (bs ++ bitsOf (fromWidth s.dir) x.toNat) le_rfl
    rw [List.map_cons, bitstream_cons, ← List.append_assoc, hdigits, hleft]
    refine ⟨r :: rs, t, .cons (decode_encode _) hexec rfl hrun, List.forall_mem_cons.2 ⟨hcause, hcauses⟩, ?_, hholds',
      ⟨hframe.c, hframe.ctrl, hframe.status⟩⟩
    rw [outputsOf_cons, houts, houts']
    rfl

/-- A conversion run up to its flush: `CVSTART` empties the buffer, then the pushes (R86). -/
theorem conversion_start (d : Dir) (st : Strictness) (xs : List Imm) (ready : s.ecause = 0)
    (hxs : ∀ x ∈ xs, x.toNat < 2 ^ fromWidth d) :
    ∃ rs t, Completes ([.cvstart d st] ++ Pseudo.expand (.cvpushs xs)) s rs t ∧ (∀ r ∈ rs, r.cause = 0) ∧
      outputsOf rs = wholeDigits (toWidth d) (bitstream (fromWidth d) (xs.map BitVec.toNat)) ∧
      Holds (leftoverBits (toWidth d) (bitstream (fromWidth d) (xs.map BitVec.toNat))) t ∧
      OnlyBufferWritten (s.setConversion d st) t := by
  have hstart := exec_cvstart_of_ready (d := d) (st := st) ready
  have hdir : ((((s.setConversion d st).setAcc 0).setBits 0).answered 0 0 0).dir = d := by simp
  have hempty : Holds [] ((((s.setConversion d st).setAcc 0).setBits 0).answered 0 0 0) :=
    ⟨rfl, rfl, toWidth_pos _⟩
  obtain ⟨rs, t, hrun, hcauses, houts, hholds, hframe⟩ := Completes.pushes xs hempty ready (by rwa [hdir])
  rw [hdir, List.nil_append] at houts hholds
  exact ⟨_, t, (Completes.single hstart rfl).append hrun, List.forall_mem_cons.2 ⟨rfl, hcauses⟩, houts, hholds,
    ⟨hframe.c, hframe.ctrl, hframe.status⟩⟩

/-! ### The flush on the bit string left (R85, R86) -/

/-- The pad: the leftover bits, then zeros. -/
theorem Holds.flushPad_eq (h : Holds bs s) :
    flushPad s = valueOf (bs ++ List.replicate (toWidth s.dir - bs.length) false) := by
  have hlt := valueOf_lt (bs ++ List.replicate (toWidth s.dir - bs.length) false)
  rw [List.length_append, List.length_replicate, Nat.add_sub_cancel' h.short.le] at hlt
  have hvalue : valueOf (bs ++ List.replicate (toWidth s.dir - bs.length) false) =
      s.acc.toNat * 2 ^ (toWidth s.dir - s.bits.toNat) := by
    rw [valueOf_append, valueOf_replicate_false, List.length_replicate, h.acc, h.bits, Nat.add_zero]
  rw [flushPad_eq_arith h.bits_lt h.acc_lt, ← hvalue, Nat.mod_eq_of_lt hlt]

theorem Holds.flushPad_lt (h : Holds bs s) : flushPad s < 256 := by
  rw [flushPad_eq_arith h.bits_lt h.acc_lt]
  exact (Nat.mod_lt _ (Nat.two_pow_pos _)).trans_le (Nat.pow_le_pow_right two_pos (toWidth_le_eight s.dir))

theorem Holds.bits_pos_iff (h : Holds bs s) : 0 < s.bits.toNat ↔ bs ≠ [] := by
  rw [h.bits, List.length_pos_iff]

theorem Holds.flushPad_eq_zero_iff (h : Holds bs s) : flushPad s = 0 ↔ bs.all (· == false) = true := by
  rw [h.flushPad_eq, valueOf_append, valueOf_replicate_false, Nat.add_zero, Nat.mul_eq_zero, valueOf_eq_zero_iff]
  exact or_iff_left (Nat.two_pow_pos _).ne'

/-- A loose flush emits the padded leftover, if there is one, and empties the buffer. -/
theorem Holds.flush_loose (h : Holds bs s) (ready : s.ecause = 0) (hst : s.strictness = .loose) :
    ∃ r : Response, exec .cvflush s = .next (((s.setAcc 0).setBits 0).emit r) ∧
      r.outputs = if bs = [] then [] else [valueOf (bs ++ List.replicate (toWidth s.dir - bs.length) false)] := by
  refine ⟨_, exec_cvflush_of_ready_loose ready hst, ?_⟩
  rw [outputs_lanes]
  · simp only [h.bits_pos_iff, h.flushPad_eq, ite_not]
  · split <;> simp
  · split <;> simp [h.flushPad_lt]

/-- A strict flush empties the buffer where the leftover is a short run of zeros, and faults otherwise. -/
theorem Holds.flush_strict (h : Holds bs s) (ready : s.ecause = 0) (hst : s.strictness = .strict) :
    exec .cvflush s = if bs.length < fromWidth s.dir ∧ bs.all (· == false) = true
      then .next (((s.setAcc 0).setBits 0).answered 0 0 0) else raise .paddingRequired s := by
  rw [exec_cvflush_of_ready_strict ready hst]
  simp only [h.bits, h.flushPad_eq_zero_iff]
  rfl

/-! ### Whole conversion runs (R86) -/

theorem convertRun_eq (d : Dir) (st : Strictness) (xs : List Imm) :
    convertRun d st xs = [.cvstart d st] ++ Pseudo.expand (.cvpushs xs) ++ [.cvflush] := rfl

/-- What a conversion run leaves where `convert` gives a result (R86). -/
structure Converted (outs : List Nat) (rs : List Response) (t : State) : Prop where
  outputs : outputsOf rs = outs
  ecause : t.ecause = 0
  acc : t.acc = 0
  bits : t.bits = 0

/-- What it leaves where `convert` fails on the bit string `bs`: the whole digits emitted, and the rest kept (R86). -/
structure PaddingFault (tw : Nat) (bs : List Bool) (rs : List Response) (t : State) : Prop where
  last : rs.getLast? = some ⟨3, 0, 0⟩
  ecause : t.ecause = 3
  outputs : outputsOf rs = wholeDigits tw bs
  bits : t.bits.toNat = (leftoverBits tw bs).length
  acc : t.acc.toNat = valueOf (leftoverBits tw bs)

/-- How a conversion of `xs` can end. -/
def ConvertOutcome (d : Dir) (st : Strictness) (xs : List Nat) (rs : List Response) (t : State) : Prop :=
  match convert d st xs with
  | some outs => Converted outs rs t
  | none => PaddingFault (toWidth d) (bitstream (fromWidth d) xs) rs t

/-- The flush after the pushes decides as `convert` does. -/
theorem flush_convertOutcome {ys : List Nat} {rs : List Response} (ready : t.ecause = 0) (hdir : t.dir = d)
    (hst : t.strictness = st)
    (houts : outputsOf rs = wholeDigits (toWidth d) (bitstream (fromWidth d) ys))
    (h : Holds (leftoverBits (toWidth d) (bitstream (fromWidth d) ys)) t) :
    ∃ r u, exec .cvflush t = .next u ∧ u.responses = t.responses ++ [r] ∧
      u.c = t.c ∧ u.valid = t.valid ∧ u.mode = t.mode ∧
      ConvertOutcome d st ys (rs ++ [r]) u := by
  cases st with
  | loose =>
    obtain ⟨r, hexec, hr⟩ := h.flush_loose ready hst
    refine ⟨r, _, hexec, rfl, rfl, rfl, rfl, ?_, ready, rfl, rfl⟩
    rw [hdir] at hr
    rw [outputsOf_append, houts]
    exact congrArg _ ((List.append_nil _).trans hr)
  | strict =>
    have hexec := h.flush_strict ready hst
    rw [hdir] at hexec
    split at hexec
    case isTrue hpad =>
      refine ⟨⟨0, 0, 0⟩, _, hexec, rfl, rfl, rfl, rfl, ?_⟩
      rw [ConvertOutcome, convert, if_pos hpad]
      exact ⟨by rw [outputsOf_append, houts]; exact List.append_nil _, ready, rfl, rfl⟩
    case isFalse hpad =>
      refine ⟨⟨3, 0, 0⟩, _, hexec.trans (raise_of_ready ready), rfl, rfl, by simp, rfl, ?_⟩
      rw [ConvertOutcome, convert, if_neg hpad]
      exact ⟨List.getLast?_concat, State.setEcause_ecause ..,
        by rw [outputsOf_append, houts]; exact List.append_nil _, h.bits, h.acc⟩

theorem convertRun_completes (d : Dir) (st : Strictness) (xs : List Imm) (ready : s.ecause = 0)
    (hxs : ∀ x ∈ xs, x.toNat < 2 ^ fromWidth d) :
    ∃ rs t, Completes (convertRun d st xs) s rs t ∧ t.c = s.c ∧ t.valid = s.valid ∧ t.mode = s.mode ∧
      ConvertOutcome d st (xs.map BitVec.toNat) rs t := by
  obtain ⟨rs, t, hrun, -, houts, hholds, hframe⟩ := conversion_start d st xs ready hxs
  obtain ⟨r, u, hexec, hr, hc, hvalid, hmode, hout⟩ := flush_convertOutcome (hframe.ecause.trans ready)
    (hframe.dir.trans (State.setConversion_dir ..)) (hframe.strictness.trans (State.setConversion_strictness ..))
    houts hholds
  exact ⟨rs ++ [r], u, hrun.append (.cons (decode_encode _) hexec hr (.nil u)), hc.trans hframe.c,
    hvalid.trans hframe.valid, hmode.trans (hframe.mode.trans (State.setConversion_mode ..)), hout⟩

theorem convertRun_of_convert_eq_some {xs : List Imm} {outs : List Nat} (ready : s.ecause = 0)
    (hxs : ∀ x ∈ xs, x.toNat < 2 ^ fromWidth d) (h : convert d st (xs.map BitVec.toNat) = some outs) :
    ∃ rs t, Completes (convertRun d st xs) s rs t ∧ outputsOf rs = outs ∧ t.ecause = 0 := by
  obtain ⟨rs, t, hrun, -, -, -, hout⟩ := convertRun_completes d st xs ready hxs
  rw [ConvertOutcome, h] at hout
  exact ⟨rs, t, hrun, hout.outputs, hout.ecause⟩

/-! ### `convert` without a machine: bad lengths (R87) and the byte round trip (R88) -/

/-- Five, seven or six leftover bits are no padding of a 5-to-8 conversion. -/
theorem convert_strict_of_bad_length (xs : List Nat) (hlen : xs.length % 8 ∈ [1, 3, 6]) :
    convert .fiveToEight .strict xs = none := by
  rw [convert]
  refine if_neg fun hpad => ?_
  have hshort := hpad.1
  rw [leftoverBits_length, bitstream_length] at hshort
  simp only [fromWidth, toWidth, List.mem_cons, List.not_mem_nil, or_false] at hshort hlen
  omega

/-- Whole digits with the padded leftover after them are the whole digits of the bits with at most `tw - 1` zeros after them, which leave nothing over. -/
theorem wholeDigits_padded (h0 : 0 < tw) (bs : List Bool) :
    ∃ k n, k < tw ∧ (bs ++ List.replicate k false).length = tw * n ∧
      wholeDigits tw bs ++ (if leftoverBits tw bs = [] then [] else
        [valueOf (leftoverBits tw bs ++ List.replicate (tw - (leftoverBits tw bs).length) false)]) =
      wholeDigits tw (bs ++ List.replicate k false) := by
  have hlen := leftoverBits_length (tw := tw) (bs := bs)
  have hlt := leftoverBits_length_lt h0 bs
  have hdiv := Nat.div_add_mod bs.length tw
  have hdigits (zs : List Bool) := (wholeDigits_append h0 zs _ bs le_rfl).1
  generalize leftoverBits tw bs = rest at *
  by_cases hrest : rest = []
  · refine ⟨0, bs.length / tw, h0, ?_, by simp [hrest]⟩
    rw [hrest, List.length_nil] at hlen
    rw [List.replicate_zero, List.append_nil]
    omega
  · have hpos := List.length_pos_iff.2 hrest
    have hfull : (rest ++ List.replicate (tw - rest.length) false).length = tw := by
      rw [List.length_append, List.length_replicate]
      omega
    refine ⟨tw - rest.length, bs.length / tw + 1, by omega, ?_, ?_⟩
    · rw [List.length_append, List.length_replicate, Nat.mul_succ]
      omega
    · rw [hdigits, wholeDigits_step h0 hfull.ge, List.take_of_length_le hfull.le, List.drop_of_length_le hfull.le,
        wholeDigits_nil, if_neg hrest]

/-- R88 on the bit strings: the digits of the padded bits are those bits again, whose bytes are the input's, and the padding is at most four zeros. -/
theorem convert_bytes_roundtrip (xs : List Nat) (hxs : ∀ x ∈ xs, x < 256) :
    ∃ outs, convert .eightToFive .loose xs = some outs ∧ (∀ x ∈ outs, x < 32) ∧
      convert .fiveToEight .strict outs = some xs := by
  obtain ⟨k, n, hk, hlen, hpadded⟩ := wholeDigits_padded (tw := 5) (by decide) (bitstream 8 xs)
  obtain ⟨hdigits, hleft⟩ := digits_bitstream_append (tw := 8) (xs := xs) (zs := List.replicate k false) hxs
    (by rw [List.length_replicate]; omega)
  refine ⟨_, congrArg some hpadded, fun x hx => wholeDigits_lt hx, ?_⟩
  simp only [convert, fromWidth, toWidth, bitstream_wholeDigits (by decide) n hlen, hdigits, hleft]
  exact if_pos ⟨by rwa [List.length_replicate], by simp⟩

/-! ### Conversion runs on bytes and digits (R88, R99) -/

theorem setWidth_byte_toNat (b : BitVec 8) : (b.setWidth 12).toNat = b.toNat := by
  have := b.isLt
  rw [BitVec.toNat_setWidth]
  omega

theorem map_toNat_bytes (bytes : List (BitVec 8)) :
    (bytes.map fun b => b.setWidth 12).map BitVec.toNat = bytes.map BitVec.toNat := by
  rw [List.map_map]
  exact List.map_congr_left fun b _ => setWidth_byte_toNat b

theorem map_toNat_imms {outs : List Nat} (h : ∀ x ∈ outs, x < 32) :
    (outs.map fun n => BitVec.ofNat 12 n).map BitVec.toNat = outs := by
  rw [List.map_map]
  exact (List.map_congr_left fun x hx => Nat.mod_eq_of_lt ((h x hx).trans (by decide))).trans (List.map_id outs)

/-- The bytes converted to digits, from any ready state. -/
theorem bytes_to_digits (bytes : List (BitVec 8)) (ready : s.ecause = 0) :
    ∃ rs t, Completes (convertRun .eightToFive .loose (bytes.map fun b => b.setWidth 12)) s rs t ∧ t.ecause = 0 ∧
      (∀ x ∈ outputsOf rs, x < 32) ∧ convert .fiveToEight .strict (outputsOf rs) = some (bytes.map BitVec.toNat) := by
  have hbytes : ∀ x ∈ bytes.map BitVec.toNat, x < 256 := List.forall_mem_map.2 fun b _ => b.isLt
  have himms : ∀ x ∈ bytes.map fun b => b.setWidth 12, x.toNat < 2 ^ fromWidth .eightToFive :=
    List.forall_mem_map.2 fun b _ => by rw [setWidth_byte_toNat]; exact b.isLt
  obtain ⟨outs, hout, hlt, hback⟩ := convert_bytes_roundtrip (bytes.map BitVec.toNat) hbytes
  obtain ⟨rs, t, hrun, rfl, ht⟩ := convertRun_of_convert_eq_some ready himms (by rwa [map_toNat_bytes])
  exact ⟨rs, t, hrun, ht, hlt, hback⟩

/-- Digits that convert back to `ys` do so in a run from any ready state. -/
theorem digits_to_bytes {digits ys : List Nat} (ready : s.ecause = 0) (hlt : ∀ x ∈ digits, x < 32)
    (h : convert .fiveToEight .strict digits = some ys) :
    ∃ rs t, Completes (convertRun .fiveToEight .strict (digits.map fun n => BitVec.ofNat 12 n)) s rs t ∧
      outputsOf rs = ys ∧ t.ecause = 0 := by
  refine convertRun_of_convert_eq_some ready (List.forall_mem_map.2 fun x hx => ?_) (by rwa [map_toNat_imms hlt])
  exact (Nat.mod_le _ _).trans_lt (hlt x hx)

/-- A digit kept as a symbol is the same operand of a push (R86, R102). -/
theorem symbolImm_ofNat {x : Nat} (hx : x < 32) : symbolImm (BitVec.ofNat 5 x) = BitVec.ofNat 12 x := by
  apply BitVec.eq_of_toNat_eq
  rw [symbolImm_toNat, BitVec.toNat_ofNat, BitVec.toNat_ofNat]
  omega

theorem map_symbolImm_digits {digits : List Nat} (h : ∀ x ∈ digits, x < 32) :
    (digits.map fun n => BitVec.ofNat 5 n).map symbolImm = digits.map fun n => BitVec.ofNat 12 n := by
  rw [List.map_map]
  exact List.map_congr_left fun x hx => symbolImm_ofNat (h x hx)

/-- The host reads the symbols back from the responses of a decoding run. -/
theorem map_data_decodedResponse (vs : List Symbol) :
    (vs.map decodedResponse).map (fun r => r.data.setWidth 5) = vs := by
  rw [List.map_map]
  refine (List.map_congr_left fun v _ => ?_).trans (List.map_id vs)
  exact (BitVec.setWidth_setWidth_of_le v (by decide)).trans (BitVec.setWidth_eq v)

end Sys2Proof.Machine

namespace Sys2Proof.Machine

/-- Settles O41: the outputs and the bits left are the quotient and the remainder of the bits buffered by TO. -/
theorem outputsPerPushAsTabled : Obligations.OutputsPerPushAsTabled := by
  rintro ⟨d, b, n, b'⟩ hrow v s ready rfl rfl hacc hv
  have htable : s.bits.toNat < toWidth s.dir ∧ n = (s.bits.toNat + fromWidth s.dir) / toWidth s.dir ∧
      b' = (s.bits.toNat + fromWidth s.dir) % toWidth s.dir ∧ b' < 16 := by
    generalize s.dir = d, s.bits.toNat = b at hrow
    fin_cases hrow <;> decide
  obtain ⟨hb, hn, hb', hlt⟩ := htable
  have heff := pushEffect_eq_arith hb hacc hv
  refine ⟨_, (pushEffect s v).data, exec_cvpush_of_ready_fits ready hv, ?_, ?_⟩
  · rw [State.answered_bits, State.setBits_bits, heff]
    exact (Nat.mod_eq_of_lt (hb' ▸ hlt)).trans hb'.symm
  · rw [State.answered_responses, congrArg PushEffect.cnt heff, hn]
    rfl

/-- Settles O43: the buffer holds the leftover of the bits pushed so far, and the flush decides on it as `convert` does. -/
theorem conversionRunComputesConvert : Obligations.ConversionRunComputesConvert := by
  intro d st xs s ready hxs
  obtain ⟨rs, t, hrun, hc, hvalid, hmode, hout⟩ := convertRun_completes d st xs ready hxs
  refine ⟨rs, t, hrun, hc, hvalid, hmode, ?_⟩
  unfold ConvertOutcome at hout
  cases hconvert : convert d st (xs.map BitVec.toNat) with
  | some outs =>
    rw [hconvert] at hout
    exact ⟨hout.outputs, hout.ecause, hout.acc, hout.bits⟩
  | none =>
    rw [hconvert] at hout
    exact ⟨hout.last, hout.ecause, hout.outputs, hout.bits, hout.acc⟩

/-- Settles O44: the pushes in range complete, the bad one faults, and the halted block refuses the rest. -/
theorem conversionStopsAtAnInputOutOfRange : Obligations.ConversionStopsAtAnInputOutOfRange := by
  intro d st xs post bad s ready hxs hbad
  obtain ⟨rs, t, hrun, hcauses, -, -, hframe⟩ := conversion_start d st xs ready hxs
  have ht : t.ecause = 0 := hframe.ecause.trans ready
  have hdir : t.dir = d := hframe.dir.trans (State.setConversion_dir ..)
  rw [← hdir] at hbad
  have hgate : ∀ j ∈ Pseudo.expand (.cvpushs post) ++ [.cvflush], BehindGate j :=
    List.forall_mem_append.2 ⟨List.forall_mem_map.2 fun _ _ => ⟨nofun, nofun, nofun⟩,
      List.forall_mem_singleton.2 ⟨nofun, nofun, nofun⟩⟩
  obtain ⟨u, htail, hu⟩ := Completes.fault_refused ht (exec_cvpush_of_ready_tooLarge ht hbad) hgate
  have hsplit : convertRun d st (xs ++ bad :: post) = [.cvstart d st] ++ Pseudo.expand (.cvpushs xs) ++
      .cvpush bad :: (Pseudo.expand (.cvpushs post) ++ [.cvflush]) := by
    simp [convertRun_eq, Pseudo.expand]
  have hlen : (Pseudo.expand (.cvpushs post) ++ [Instr.cvflush]).length + 1 = post.length + 2 := by simp [Pseudo.expand]
  rw [hlen] at htail
  exact ⟨rs, u, hsplit ▸ hrun.append htail, hu, hcauses⟩

/-- Settles O45: the digits of the first run convert back in the second. -/
theorem byteConversionRoundTrips : Obligations.ByteConversionRoundTrips := by
  intro bytes s ready
  obtain ⟨rs, t, hrun, ht, hlt, hback⟩ := bytes_to_digits bytes ready
  obtain ⟨rs', u, hrun', houts, hu⟩ := digits_to_bytes ht hlt hback
  exact ⟨rs, t, rs', u, hrun, hrun', houts, hu⟩

/-- Settles O46: five or more bits are left over, so `convert` fails, and the run with it. -/
theorem strictConversionRejectsBadLengths : Obligations.StrictConversionRejectsBadLengths := by
  intro xs s ready hxs hlen
  obtain ⟨rs, t, hrun, -, -, -, hout⟩ := convertRun_completes .fiveToEight .strict xs ready hxs
  rw [ConvertOutcome, convert_strict_of_bad_length _ (by rwa [List.length_map])] at hout
  exact ⟨rs, t, hrun, hout.ecause, hout.last⟩

/-- Settles O47: the six runs one after the other; the characters decode to the symbols encoded, whose payload converts back. -/
theorem addressRoundTrips : Obligations.AddressRoundTrips := by
  intro chars bytes s ready
  obtain ⟨r₁, s₁, hrun₁, h₁, hlt, hback⟩ := bytes_to_digits bytes ready
  refine ⟨r₁, s₁, hrun₁, ?_⟩
  intro payload5
  obtain ⟨r₂, s₂, hrun₂, h₂, -, hlast₂⟩ := computeRun chars payload5 h₁
  refine ⟨r₂, s₂, _, hrun₂, hlast₂, ?_⟩
  obtain ⟨s₃, hrun₃, hsame₃⟩ := encodeRun_completes (payload5 ++ toDigits _) h₂
  have h₃ := hsame₃.ecause.trans h₂
  refine ⟨_, s₃, hrun₃, ?_⟩
  obtain ⟨s₄, hrun₄, hsame₄⟩ := decodeRun_completes (payload5 ++ toDigits _) h₃
  refine ⟨_, s₄, hrun₄, ?_⟩
  rw [map_data_decodedResponse]
  obtain ⟨r₅, s₅, hrun₅, h₅, -, hlast₅⟩ := verifyRun chars (payload5 ++ toDigits _) (hsame₄.ecause.trans h₃)
  rw [checksumInput_append, compute_append_toDigits] at hlast₅
  refine ⟨r₅, s₅, hrun₅, hlast₅, ?_⟩
  obtain ⟨r₆, s₆, hrun₆, houts, h₆⟩ := digits_to_bytes h₅ hlt hback
  refine ⟨r₆, s₆, ?_, h₆, houts⟩
  rwa [List.length_append, toDigits_length, Nat.add_sub_cancel, List.take_left, map_symbolImm_digits hlt]

end Sys2Proof.Machine
end
